-- ==== Sys2Proof/Word.lean ====
section
/-! DEFINITION. The word types of the block (00_scope.md R10, R13; 20_memory.md R60). -/

namespace Sys2Proof

/-- Eight bits: a payload byte, a control register, host data (R10). -/
abbrev Byte := BitVec 8

/-- A 24-bit colour, red in bits 23:16, green in 15:8, blue in 7:0 (R13). -/
abbrev Rgb := BitVec 24

/-- A 20-bit host byte address (R60). -/
abbrev HostAddr := BitVec 20

/-- A 29-bit host transaction word (R101). -/
abbrev HbusWord := BitVec 29

end Sys2Proof
end

