-- ==== Sys2Proof/Config.lean ====
section
/-! DEFINITION. The fixed parameters of the block (00_scope.md R6 to R9) and the values the spec leaves open. -/

namespace Sys2Proof.Config

/-- Pixels in a raster row (R6). -/
abbrev xSize : Nat := 160

/-- Rows of the raster (R6). -/
abbrev ySize : Nat := 192

/-- Columns of a cell (R7). -/
abbrev cellW : Nat := 8

/-- Scanlines of a cell (R7). -/
abbrev cellH : Nat := 16

/-- Cell columns, `X_SIZE / 8` (R7). -/
abbrev nCols : Nat := 20

/-- Cell rows, `Y_SIZE / 16` (R7). -/
abbrev nRows : Nat := 12

/-- Cells of the raster (R7, R8). -/
abbrev nCells : Nat := 240

/-- Bytes of the bitmap region (R8). -/
abbrev bitmapBytes : Nat := 3840

/-- Bytes of the colour-map region (R8, 90_conflicts.md C3). -/
abbrev cmapBytes : Nat := 120

/-- Bytes of the payload RAM (R8). -/
abbrev payloadBytes : Nat := 3960

/-- Entries of the raster RAM (R8). -/
abbrev rasterPixels : Nat := 30720

/-- Bytes of the raster window, three a pixel (20_memory.md R61, R65). -/
abbrev rasterBytes : Nat := 92160

/-- First host address of the raster window (20_memory.md R61). -/
abbrev rasterBase : Nat := 0x20000

/-- Clock cycles from an accepted START to DONE, one figure for each run of one implementation.
R9, R285: the only open parameter, finite and at least 1; no rule depends on it and nothing here reads it (log 15). -/
opaque tDecode : Nat → ℕ+

/-- FREE VALUE (log 6): what the raster RAM byte at an offset holds before the engine has written it
(93_implementation_defined.md I2, "any value"). Nothing is known of it. -/
opaque unwrittenRas : Nat → Byte

/-- FREE VALUE (log 7): what an engine fetch reads at a payload offset the host has not written.
No run that began at an accepted START fetches one (43_host_interface.md R194). Nothing is known of it. -/
opaque unwrittenPay : Nat → Byte

end Sys2Proof.Config
end

