-- ==== Sys2Proof/Machine/Operands.lean ====
section
/-! DEFINITION. Operand assembly: fields, nibbles, pixel codes, offsets (30_encoding.md R91 to R95, R100; 20_memory.md R63 to R66). -/

namespace Sys2Proof.Machine

/-- `BA.BG = BA[7:4]` (10_state.md R26). -/
def fieldBG (a : Byte) : BitVec 4 := a.extractLsb' 4 4

/-- `BA.NRM = BA[3]` (R27). -/
def fieldNRM (a : Byte) : BitVec 1 := a.extractLsb' 3 1

/-- `BA.C2 = BA[2:0]` (R28). -/
def fieldC2 (a : Byte) : BitVec 3 := a.extractLsb' 0 3

/-- `BD.C3 = BD[7:4]` (R30). -/
def fieldC3 (d : Byte) : BitVec 4 := d.extractLsb' 4 4

/-- `zext_4` of a 3-bit colour (30_encoding.md R100). -/
def zext4 (v : BitVec 3) : BitVec 4 := v.setWidth 4

/-- NIBBLE_SELECT: the low nibble for an even cell column, the high one for an odd (41_cell_setup.md R135). -/
def nibbleSelect (cm : Byte) (x1 : Nat) : BitVec 4 :=
  if x1 % 2 = 0 then cm.extractLsb' 0 4 else cm.extractLsb' 4 4

/-- `C1 = n[2:0]` (R136). -/
def nibbleColour (n : BitVec 4) : BitVec 3 := n.extractLsb' 0 3

/-- The hi-res code of column `x2`: bit `7 - x2` (30_encoding.md R94, R100). -/
def hrCode (bm : Byte) (x2 : Nat) : BitVec 1 := bm.extractLsb' (7 - x2) 1

/-- The multicolor code of the column pair that begins at the even column `x2`: bits `7-x2 : 6-x2` (R95, R100). -/
def mcCode (bm : Byte) (x2 : Nat) : BitVec 2 := bm.extractLsb' (6 - x2) 2

/-- Cell row of a cell index (10_state.md R38). -/
def cellRow (c : Byte) : Nat := c.toNat / 20

/-- Cell column of a cell index (10_state.md R38). -/
def cellCol (c : Byte) : Nat := c.toNat % 20

/-- Payload offset of a bitmap byte (20_memory.md R63). -/
def bmOff (x1 y1 y2 : Nat) : Nat := 192 * x1 + 16 * y1 + y2

/-- Payload offset of a colour-map byte (20_memory.md R64). -/
def cmOff (x1 y1 : Nat) : Nat := 3840 + (20 * y1 + x1) / 2

/-- Raster index of a pixel (10_state.md R23). -/
def pixelIndex (x y : Nat) : Nat := 160 * y + x

/-- Offset of a component byte in the raster window: 0 red, 1 green, 2 blue (20_memory.md R65). -/
def rasOff (p k : Nat) : Nat := 3 * p + k

/-- The key `K = {MC, NRM}` of a cell (30_encoding.md R96). -/
def cellselKey (mc : Bool) (a : Byte) : BitVec 2 := BitVec.ofBool mc ++ fieldNRM a

end Sys2Proof.Machine
end

