-- ==== Sys2Proof/Syntax.lean ====
section
/-! DEFINITION. The 26 operations of spec/opcode_table.json, in its four formats (30_encoding.md R90, R103, R96, R98, R99). -/

namespace Sys2Proof

/-- The four formats of 30_encoding.md R90. -/
inductive Format
  | hbus
  | cellsel
  | hrpix
  | mcpix
  deriving DecidableEq, Repr

/-- One operation. A host operation keeps the address field where its row is a range of addresses, and the data field
where its row leaves the data open; a read keeps the data field it ignores (R104 e), so that no bit of a word is lost. -/
inductive Instr
  /-- SB_PAY: write a payload byte (43_host_interface.md R191). -/
  | sbPay (a : HostAddr) (d : Byte)
  /-- LB_PAY: read a payload byte (R192). -/
  | lbPay (a : HostAddr) (d : Byte)
  /-- SB_RSV: write to a reserved address (R206). -/
  | sbRsv (a : HostAddr) (d : Byte)
  /-- LB_RSV: read a reserved address (R207). -/
  | lbRsv (a : HostAddr) (d : Byte)
  /-- CMD_NOP (R193). -/
  | cmdNop
  /-- CMD_START (R194). -/
  | cmdStart
  /-- CMD_ACK (R195). -/
  | cmdAck
  /-- CMD_RSV: a reserved command code, `d` in 0x03..0xFF (R196). -/
  | cmdRsv (d : Byte)
  /-- LB_CMD (R197). -/
  | lbCmd (d : Byte)
  /-- SB_STATUS (R198). -/
  | sbStatus (d : Byte)
  /-- LB_STATUS (R199). -/
  | lbStatus (d : Byte)
  /-- SB_BA (R200). -/
  | sbBa (d : Byte)
  /-- LB_BA (R201). -/
  | lbBa (d : Byte)
  /-- SB_BD (R202). -/
  | sbBd (d : Byte)
  /-- LB_BD (R203). -/
  | lbBd (d : Byte)
  /-- SB_RAS: write to the raster window (R204). -/
  | sbRas (a : HostAddr) (d : Byte)
  /-- LB_RAS: read a raster byte (R205). -/
  | lbRas (a : HostAddr) (d : Byte)
  /-- CELL_MC: multicolor cell; `nrm` is the key's bit 0, which the operation does not read (41_cell_setup.md R141). -/
  | cellMc (nrm : BitVec 1)
  /-- CELL_HR_NORMAL: hi-res cell, inverse off (R142). -/
  | cellHrNormal
  /-- CELL_HR_INVERSE: hi-res cell, inverse on (R143). -/
  | cellHrInverse
  /-- HRPIX_0: hi-res code 0 (42_pixel_expansion.md R163). -/
  | hrpix0
  /-- HRPIX_1: hi-res code 1 (R164). -/
  | hrpix1
  /-- MCPIX_00: multicolor code 00 (R166). -/
  | mcpix00
  /-- MCPIX_01: multicolor code 01 (R167). -/
  | mcpix01
  /-- MCPIX_10: multicolor code 10 (R168). -/
  | mcpix10
  /-- MCPIX_11: multicolor code 11 (R169). -/
  | mcpix11
  deriving DecidableEq, Repr

/-- The row of the opcode table an operation belongs to. -/
inductive Op
  | sbPay | lbPay | sbRsv | lbRsv | cmdNop | cmdStart | cmdAck | cmdRsv | lbCmd | sbStatus | lbStatus
  | sbBa | lbBa | sbBd | lbBd | sbRas | lbRas
  | cellMc | cellHrNormal | cellHrInverse | hrpix0 | hrpix1 | mcpix00 | mcpix01 | mcpix10 | mcpix11
  deriving DecidableEq, Repr

/-- The row of an instruction. -/
def Instr.op : Instr → Op
  | .sbPay _ _ => .sbPay
  | .lbPay _ _ => .lbPay
  | .sbRsv _ _ => .sbRsv
  | .lbRsv _ _ => .lbRsv
  | .cmdNop => .cmdNop
  | .cmdStart => .cmdStart
  | .cmdAck => .cmdAck
  | .cmdRsv _ => .cmdRsv
  | .lbCmd _ => .lbCmd
  | .sbStatus _ => .sbStatus
  | .lbStatus _ => .lbStatus
  | .sbBa _ => .sbBa
  | .lbBa _ => .lbBa
  | .sbBd _ => .sbBd
  | .lbBd _ => .lbBd
  | .sbRas _ _ => .sbRas
  | .lbRas _ _ => .lbRas
  | .cellMc _ => .cellMc
  | .cellHrNormal => .cellHrNormal
  | .cellHrInverse => .cellHrInverse
  | .hrpix0 => .hrpix0
  | .hrpix1 => .hrpix1
  | .mcpix00 => .mcpix00
  | .mcpix01 => .mcpix01
  | .mcpix10 => .mcpix10
  | .mcpix11 => .mcpix11

/-- The format of an instruction (R90). -/
def Instr.format : Instr → Format
  | .cellMc _ | .cellHrNormal | .cellHrInverse => .cellsel
  | .hrpix0 | .hrpix1 => .hrpix
  | .mcpix00 | .mcpix01 | .mcpix10 | .mcpix11 => .mcpix
  | .sbPay _ _ | .lbPay _ _ | .sbRsv _ _ | .lbRsv _ _ | .cmdNop | .cmdStart | .cmdAck | .cmdRsv _ | .lbCmd _
  | .sbStatus _ | .lbStatus _ | .sbBa _ | .lbBa _ | .sbBd _ | .lbBd _ | .sbRas _ _ | .lbRas _ _ => .hbus

end Sys2Proof
end

