-- ==== Sys2Proof/WellFormed.lean ====
section
/-! DEFINITION. Which instructions have an encoding: the address and data ranges of 30_encoding.md R103. -/

namespace Sys2Proof

/-- The payload range 0x00000..0x00F77 (20_memory.md R61). -/
def inPayload (a : HostAddr) : Bool := decide (a.toNat ≤ 0xF77)

/-- The raster window 0x20000..0x367FF (R61). -/
def inRaster (a : HostAddr) : Bool := decide (0x20000 ≤ a.toNat) && decide (a.toNat ≤ 0x367FF)

/-- The three reserved ranges of R61. -/
def inReserved (a : HostAddr) : Bool :=
  (decide (0xF78 ≤ a.toNat) && decide (a.toNat ≤ 0xFFF))
    || (decide (0x1004 ≤ a.toNat) && decide (a.toNat ≤ 0x1FFFF))
    || decide (0x36800 ≤ a.toNat)

/-- A command code of R104 (a): 0x03..0xFF. -/
def isReservedCode (d : Byte) : Bool := decide (3 ≤ d.toNat)

/-- An instruction that some word of its format encodes. -/
def Instr.wf : Instr → Bool
  | .sbPay a _ | .lbPay a _ => inPayload a
  | .sbRsv a _ | .lbRsv a _ => inReserved a
  | .sbRas a _ | .lbRas a _ => inRaster a
  | .cmdRsv d => isReservedCode d
  | .cmdNop | .cmdStart | .cmdAck | .lbCmd _ | .sbStatus _ | .lbStatus _ | .sbBa _ | .lbBa _ | .sbBd _ | .lbBd _
  | .cellMc _ | .cellHrNormal | .cellHrInverse | .hrpix0 | .hrpix1 | .mcpix00 | .mcpix01 | .mcpix10 | .mcpix11 => true

end Sys2Proof
end

