-- ==== Sys2Proof/Decode.lean ====
section
/-! DEFINITION. The decoders of the four formats, the encoder, and the opcode table's rows (30_encoding.md R96 to R103). -/

namespace Sys2Proof

/-- A word to decode, with the format the block reads it in (R90). -/
inductive CodeWord
  | hbus (w : HbusWord)
  | cellsel (k : BitVec 2)
  | hrpix (b : BitVec 1)
  | mcpix (v : BitVec 2)
  deriving DecidableEq, Repr

/-- The format a word is read in (R90). -/
def CodeWord.format : CodeWord → Format
  | .hbus _ => .hbus
  | .cellsel _ => .cellsel
  | .hrpix _ => .hrpix
  | .mcpix _ => .mcpix

/-- Bit 28 of a transaction word: 1 is a write (R101). -/
def hbusW (w : HbusWord) : BitVec 1 := w.extractLsb' 28 1

/-- Bits 27:8 of a transaction word: the host address (R101). -/
def hbusA (w : HbusWord) : HostAddr := w.extractLsb' 8 20

/-- Bits 7:0 of a transaction word: the data (R101). -/
def hbusD (w : HbusWord) : Byte := w.extractLsb' 0 8

/-- The word of a transaction `(W, A, D)` (R101). -/
def hbusWord (w : BitVec 1) (a : HostAddr) (d : Byte) : HbusWord := w ++ a ++ d

/-- The command a write to `CMD` gives (10_state.md R32). -/
def decodeCommand (d : Byte) : Instr :=
  if d = 0x00#8 then .cmdNop
  else if d = 0x01#8 then .cmdStart
  else if d = 0x02#8 then .cmdAck
  else .cmdRsv d

/-- A host write, by the address map (R103, 20_memory.md R61). -/
def decodeWrite (a : HostAddr) (d : Byte) : Instr :=
  if inPayload a then .sbPay a d
  else if inReserved a then .sbRsv a d
  else if inRaster a then .sbRas a d
  else if a = 0x01000#20 then decodeCommand d
  else if a = 0x01001#20 then .sbStatus d
  else if a = 0x01002#20 then .sbBa d
  else .sbBd d

/-- A host read, by the address map (R103, 20_memory.md R61). -/
def decodeRead (a : HostAddr) (d : Byte) : Instr :=
  if inPayload a then .lbPay a d
  else if inReserved a then .lbRsv a d
  else if inRaster a then .lbRas a d
  else if a = 0x01000#20 then .lbCmd d
  else if a = 0x01001#20 then .lbStatus d
  else if a = 0x01002#20 then .lbBa d
  else .lbBd d

/-- The operation of a host transaction: total, since every word is some operation (R102). -/
def decodeHbus (w : HbusWord) : Instr :=
  if hbusW w = 1#1 then decodeWrite (hbusA w) (hbusD w) else decodeRead (hbusA w) (hbusD w)

/-- The cell operation of a key `K = {MC, NRM}` (R96): multicolor takes precedence. -/
def decodeCellsel (k : BitVec 2) : Instr :=
  if k.extractLsb' 1 1 = 1#1 then .cellMc (k.extractLsb' 0 1)
  else if k.extractLsb' 0 1 = 1#1 then .cellHrNormal
  else .cellHrInverse

/-- The operation of a hi-res code (R98). -/
def decodeHrpix (b : BitVec 1) : Instr := if b = 0#1 then .hrpix0 else .hrpix1

/-- The operation of a multicolor code (R99). -/
def decodeMcpix (v : BitVec 2) : Instr :=
  if v = 0b00#2 then .mcpix00 else if v = 0b01#2 then .mcpix01 else if v = 0b10#2 then .mcpix10 else .mcpix11

/-- The operation a word of a format stands for: no word of any format is illegal (R96, R98, R99, R102). -/
def decode : CodeWord → Instr
  | .hbus w => decodeHbus w
  | .cellsel k => decodeCellsel k
  | .hrpix b => decodeHrpix b
  | .mcpix v => decodeMcpix v

/-- Why raw bits are no word of a format. -/
inductive DecodeReject
  /-- A bit above the format's width is 1. -/
  | bitsBeyondFormat
  /-- No format has words of that many bits. -/
  | noSuchWidth
  deriving DecidableEq, Repr

/-- Raw bits read in a format: rejected by name where a bit beyond the format's width is set. -/
def readWord (f : Format) (bits : Nat) : Except DecodeReject CodeWord :=
  match f with
  | .hbus => if bits < 2 ^ 29 then .ok (.hbus (BitVec.ofNat 29 bits)) else .error .bitsBeyondFormat
  | .cellsel => if bits < 4 then .ok (.cellsel (BitVec.ofNat 2 bits)) else .error .bitsBeyondFormat
  | .hrpix => if bits < 2 then .ok (.hrpix (BitVec.ofNat 1 bits)) else .error .bitsBeyondFormat
  | .mcpix => if bits < 4 then .ok (.mcpix (BitVec.ofNat 2 bits)) else .error .bitsBeyondFormat

/-- Raw bits decoded in a format. -/
def decodeBits (f : Format) (bits : Nat) : Except DecodeReject Instr :=
  match readWord f bits with
  | .ok cw => .ok (decode cw)
  | .error r => .error r

/-- The format in which a word of the opcode table is read when only its width is known (log 12, DESIGN CHOICE): 32 or
29 bits are a host transaction, 1 bit a hi-res code, 8 or 2 bits a cell key. The block itself always knows the format. -/
def formatOfWidth (nbits : Nat) : Except DecodeReject Format :=
  if nbits = 32 then .ok .hbus
  else if nbits = 29 then .ok .hbus
  else if nbits = 1 then .ok .hrpix
  else if nbits = 8 then .ok .cellsel
  else if nbits = 2 then .ok .cellsel
  else .error .noSuchWidth

/-- A table word with its format, from its width and its bits (log 12). -/
def readTableWord (nbits w : Nat) : Except DecodeReject CodeWord :=
  match formatOfWidth nbits with
  | .ok f => readWord f w
  | .error r => .error r

/-- The instruction the decoder reads from a word numbered as spec/opcode_table.json numbers it. -/
def decodeTableWord (nbits w : Nat) : Option Instr :=
  match readTableWord nbits w with
  | .ok cw => some (decode cw)
  | .error _ => none

/-! ### The encoder -/

/-- The word of an instruction (R96, R98, R99, R101, R103). -/
def encode : Instr → CodeWord
  | .sbPay a d => .hbus (hbusWord 1#1 a d)
  | .lbPay a d => .hbus (hbusWord 0#1 a d)
  | .sbRsv a d => .hbus (hbusWord 1#1 a d)
  | .lbRsv a d => .hbus (hbusWord 0#1 a d)
  | .cmdNop => .hbus (hbusWord 1#1 0x01000#20 0x00#8)
  | .cmdStart => .hbus (hbusWord 1#1 0x01000#20 0x01#8)
  | .cmdAck => .hbus (hbusWord 1#1 0x01000#20 0x02#8)
  | .cmdRsv d => .hbus (hbusWord 1#1 0x01000#20 d)
  | .lbCmd d => .hbus (hbusWord 0#1 0x01000#20 d)
  | .sbStatus d => .hbus (hbusWord 1#1 0x01001#20 d)
  | .lbStatus d => .hbus (hbusWord 0#1 0x01001#20 d)
  | .sbBa d => .hbus (hbusWord 1#1 0x01002#20 d)
  | .lbBa d => .hbus (hbusWord 0#1 0x01002#20 d)
  | .sbBd d => .hbus (hbusWord 1#1 0x01003#20 d)
  | .lbBd d => .hbus (hbusWord 0#1 0x01003#20 d)
  | .sbRas a d => .hbus (hbusWord 1#1 a d)
  | .lbRas a d => .hbus (hbusWord 0#1 a d)
  | .cellMc nrm => .cellsel (1#1 ++ nrm)
  | .cellHrNormal => .cellsel 0b01#2
  | .cellHrInverse => .cellsel 0b00#2
  | .hrpix0 => .hrpix 0#1
  | .hrpix1 => .hrpix 1#1
  | .mcpix00 => .mcpix 0b00#2
  | .mcpix01 => .mcpix 0b01#2
  | .mcpix10 => .mcpix 0b10#2
  | .mcpix11 => .mcpix 0b11#2

/-! ### The rows of the opcode table -/

/-- An `HBUS` row: match, mask, and the ranges the table gives it (R102, R103). -/
structure HbusRow where
  op : Op
  mtch : HbusWord
  mask : HbusWord
  addrRanges : List (Nat × Nat) := []
  dataRange : Option (Nat × Nat) := none
  deriving DecidableEq, Repr

/-- A value lies in an inclusive range. -/
def inRange (x : Nat) (r : Nat × Nat) : Bool := decide (r.1 ≤ x) && decide (x ≤ r.2)

/-- R102: mask and match, the address in one of the row's ranges if it has any, the data in its range if it has one. -/
def HbusRow.covers (r : HbusRow) (w : HbusWord) : Bool :=
  ((w &&& r.mask) == r.mtch)
    && (r.addrRanges.isEmpty || r.addrRanges.any (inRange (hbusA w).toNat))
    && (match r.dataRange with
        | none => true
        | some d => inRange (hbusD w).toNat d)

/-- The reserved address ranges of R103. -/
def rsvRanges : List (Nat × Nat) := [(0x00F78, 0x00FFF), (0x01004, 0x1FFFF), (0x36800, 0xFFFFF)]

/-- The 17 `HBUS` rows of R103. -/
def hbusTable : List HbusRow :=
  [ ⟨.sbPay, 0x10000000, 0x1FF00000, [(0x00000, 0x00F77)], none⟩,
    ⟨.lbPay, 0x00000000, 0x1FF00000, [(0x00000, 0x00F77)], none⟩,
    ⟨.sbRsv, 0x10000000, 0x10000000, rsvRanges, none⟩,
    ⟨.lbRsv, 0x00000000, 0x10000000, rsvRanges, none⟩,
    ⟨.cmdNop, 0x10100000, 0x1FFFFFFF, [], none⟩,
    ⟨.cmdStart, 0x10100001, 0x1FFFFFFF, [], none⟩,
    ⟨.cmdAck, 0x10100002, 0x1FFFFFFF, [], none⟩,
    ⟨.cmdRsv, 0x10100000, 0x1FFFFF00, [], some (0x03, 0xFF)⟩,
    ⟨.lbCmd, 0x00100000, 0x1FFFFF00, [], none⟩ ]
  ++
  [ ⟨.sbStatus, 0x10100100, 0x1FFFFF00, [], none⟩,
    ⟨.lbStatus, 0x00100100, 0x1FFFFF00, [], none⟩,
    ⟨.sbBa, 0x10100200, 0x1FFFFF00, [], none⟩,
    ⟨.lbBa, 0x00100200, 0x1FFFFF00, [], none⟩,
    ⟨.sbBd, 0x10100300, 0x1FFFFF00, [], none⟩,
    ⟨.lbBd, 0x00100300, 0x1FFFFF00, [], none⟩,
    ⟨.sbRas, 0x12000000, 0x1E000000, [(0x20000, 0x367FF)], none⟩,
    ⟨.lbRas, 0x02000000, 0x1E000000, [(0x20000, 0x367FF)], none⟩ ]

/-- A row of one of the data formats: operation, match, mask (R96, R98, R99). -/
structure DataRow (n : Nat) where
  op : Op
  mtch : BitVec n
  mask : BitVec n
  deriving DecidableEq, Repr

/-- `(w & mask) == match`. -/
def DataRow.covers {n : Nat} (r : DataRow n) (w : BitVec n) : Bool := (w &&& r.mask) == r.mtch

/-- The three `CELLSEL` rows (R96). -/
def cellselTable : List (DataRow 2) :=
  [⟨.cellMc, 0b10, 0b10⟩, ⟨.cellHrNormal, 0b01, 0b11⟩, ⟨.cellHrInverse, 0b00, 0b11⟩]

/-- The two `HRPIX` rows (R98). -/
def hrpixTable : List (DataRow 1) := [⟨.hrpix0, 0, 1⟩, ⟨.hrpix1, 1, 1⟩]

/-- The four `MCPIX` rows (R99). -/
def mcpixTable : List (DataRow 2) :=
  [⟨.mcpix00, 0b00, 0b11⟩, ⟨.mcpix01, 0b01, 0b11⟩, ⟨.mcpix10, 0b10, 0b11⟩, ⟨.mcpix11, 0b11, 0b11⟩]

/-- The operations of the rows that cover a word, in its format's table. -/
def coveringOps : CodeWord → List Op
  | .hbus w => (hbusTable.filter (·.covers w)).map (·.op)
  | .cellsel k => (cellselTable.filter (·.covers k)).map (·.op)
  | .hrpix b => (hrpixTable.filter (·.covers b)).map (·.op)
  | .mcpix v => (mcpixTable.filter (·.covers v)).map (·.op)

end Sys2Proof
end

