-- ==== Sys2Proof/Machine/State.lean ====
section
/-! DEFINITION. The state of the block as plain data, its reset value, and the reasons a step stops (10_state.md, 70_reset_and_hazards.md R271). -/

namespace Sys2Proof.Machine

/-- A memory: (address, byte) pairs with strictly rising addresses. An address that is not listed holds no value the
block has been given: nothing has written it. -/
abbrev Memory := List Host.Cell

/-- The engine's working registers of one cell (10_state.md R42; `n` and `col` of 41_cell_setup.md R133 and
42_pixel_expansion.md R162). They exist only inside an engine step (log 4). -/
structure CellRegs where
  /-- Palette slot 0. -/
  s0 : Rgb
  /-- Palette slot 1. -/
  s1 : Rgb
  /-- Palette slot 2. -/
  s2 : Rgb
  /-- Palette slot 3. -/
  s3 : Rgb
  /-- The multicolor flag (R43). -/
  mc : Bool
  /-- The cell colour. -/
  c1 : BitVec 3
  /-- The colour-map byte. -/
  cm : Byte
  /-- The cell's nibble of it. -/
  n : BitVec 4
  /-- The bitmap byte of the current scanline. -/
  bm : Byte
  /-- The colour the last pixel code resolved to. -/
  col : Rgb
  deriving DecidableEq, Repr

/-- The working registers outside an engine step (log 4, DESIGN CHOICE). -/
def CellRegs.idle : CellRegs :=
  { s0 := 0#24, s1 := 0#24, s2 := 0#24, s3 := 0#24, mc := false, c1 := 0#3, cm := 0#8, n := 0#4, bm := 0#8,
    col := 0#24 }

/-- A line of the host's program (43_host_interface.md R208, R209): a transaction, or a `poll` loop. -/
inductive HostLine
  /-- One transaction, as its word (30_encoding.md R101). -/
  | txn (w : HbusWord)
  /-- `poll addr, mask, val`: read `addr` until `(byte & mask) == val` (R208). -/
  | poll (addr : HostAddr) (mask val : Byte)
  deriving DecidableEq, Repr

/-- Who moves in a step (20_memory.md R71; `rst` is 70_reset_and_hazards.md R270). -/
inductive Turn
  | host
  | engine
  | rst
  deriving DecidableEq, Repr

/-- The state of the block (10_state.md R20), with the host's remaining program and the schedule (log 1). -/
structure State where
  /-- Payload RAM, offsets 0..3959 (R21); the listed offsets are the written ones (R22). -/
  pay : Memory
  /-- Raster RAM, byte `3*p + k` is component `k` of pixel `p` (R23, 20_memory.md R65). -/
  ras : Memory
  /-- Control register `BA` (R25). -/
  ba : Byte
  /-- Control register `BD` (R29). -/
  bd : Byte
  /-- Written-mark of `BA` (R47). -/
  wBA : Bool
  /-- Written-mark of `BD` (R47). -/
  wBD : Bool
  /-- `STATUS.BUSY` (R34). -/
  busy : Bool
  /-- `STATUS.DONE` (R35). -/
  done : Bool
  /-- `STATUS.RV` (R36). -/
  rv : Bool
  /-- `STATUS.CMDERR` (R37). -/
  cmderr : Bool
  /-- Cell counter (R38). -/
  c : Byte
  /-- Latched `BA` (R39). -/
  lba : Byte
  /-- Latched `BD` (R39). -/
  lbd : Byte
  /-- Inverse latch (R40). -/
  inv : Bool
  /-- Global palette slot 3 (R41). -/
  slot3 : Rgb
  /-- The engine's working registers (R42). -/
  cell : CellRegs
  /-- The byte the last host read returned (R45, 43_host_interface.md R190; log 9). -/
  rdata : Byte
  /-- The host's remaining program (model's own, log 1). -/
  host : List HostLine
  /-- Whose turns come next (model's own, log 1). -/
  sched : List Turn
  deriving DecidableEq, Repr

/-- The two model faults of 60_exceptions.md R246. The hardware itself has none (R240). -/
inductive Fault
  /-- Raised by CMD_START, when it would be accepted and a written-mark of `BA`, `BD` or a payload byte is 0: R194's
  pseudocode, "raise Fault(UnwrittenInput)", and R246's table. Safe. -/
  | unwrittenInput
  /-- Raised by LB_PAY, LB_BA and LB_BD when the written-mark of the byte read is 0: the pseudocode of R192, R201 and R203,
  "raise Fault(UnwrittenRead)", and R246's table. Safe. -/
  | unwrittenRead
  deriving DecidableEq, Repr

/-- Why an instruction has no meaning here. -/
inductive Refusal
  /-- Raised by `exec` for an instruction without a meaning in this model; no instruction is left so. Safe. -/
  | notModelled (mnemonic : String)
  deriving DecidableEq, Repr

/-- What a step or an instruction answers. -/
abbrev Result := Host.Outcome State Fault Refusal

/-- The state after reset (70_reset_and_hazards.md R271). Registers R271 leaves unspecified are 0 (log 2, log 3). -/
def State.reset : State :=
  { pay := [], ras := [], ba := 0#8, bd := 0#8, wBA := false, wBD := false,
    busy := false, done := false, rv := false, cmderr := false,
    c := 0#8, lba := 0#8, lbd := 0#8, inv := false, slot3 := 0#24, cell := CellRegs.idle,
    rdata := 0#8, host := [], sched := [] }

end Sys2Proof.Machine
end

