-- ==== Sys2Proof/Machine/Ops.lean ====
section
/-! DEFINITION. The named operations over memory and registers (00_scope.md R12; 20_memory.md). -/

namespace Sys2Proof.Machine

/-! ### Memory -/

/-- The byte at an address: `none` where nothing has written it. -/
def Memory.read? : Memory → Nat → Option Byte
  | [], _ => none
  | (a, b) :: m, x => if x = a then some b else Memory.read? m x

/-- Store one byte, keeping the addresses strictly rising. -/
def Memory.write : Memory → Nat → Byte → Memory
  | [], x, v => [(x, v)]
  | (a, b) :: m, x, v =>
    if x < a then (x, v) :: (a, b) :: m
    else if x = a then (x, v) :: m
    else (a, b) :: Memory.write m x v

/-- The canonical form: addresses strictly rising. An unlisted address has no value, so no entry can equal it. -/
abbrev Memory.wf (m : Memory) : Prop := m.Pairwise (fun p q => p.1 < q.1)

/-- Every listed address lies below a bound. -/
abbrev Memory.below (m : Memory) (n : Nat) : Prop := ∀ p ∈ m, p.1 < n

/-! ### Payload RAM -/

/-- The written-mark `wPAY[o]` (10_state.md R22). -/
def State.wPAY (s : State) (o : Nat) : Bool := (s.pay.read? o).isSome

/-- `MemWrite(PAY, o, 1, v)` with its written-mark (43_host_interface.md R191). -/
def State.payStore (s : State) (o : Nat) (v : Byte) : State := { s with pay := s.pay.write o v }

/-- The engine's `MemRead(PAY, o, 1)`: a free value where nothing has written the byte (log 7). -/
def State.payByte (s : State) (o : Nat) : Byte := (s.pay.read? o).getD (Config.unwrittenPay o)

/-- START's input check: `BA`, `BD` and every payload byte are written (43_host_interface.md R194). -/
def State.inputsWritten (s : State) : Bool :=
  s.wBA && s.wBD && (List.range 3960).all (fun o => s.wPAY o)

/-! ### Raster RAM -/

/-- A byte of the raster RAM: a free value where the engine has not written it (log 6). -/
def State.rasByte (s : State) (q : Nat) : Byte := (s.ras.read? q).getD (Config.unwrittenRas q)

/-- `MemRead(RAS, p, 3)`: `{R, G, B}` (10_state.md R23, 20_memory.md R65). -/
def State.rasPixel (s : State) (p : Nat) : Rgb :=
  s.rasByte (rasOff p 0) ++ s.rasByte (rasOff p 1) ++ s.rasByte (rasOff p 2)

/-- Red component, bits 23:16 (00_scope.md R13). -/
def red (v : Rgb) : Byte := v.extractLsb' 16 8

/-- Green component, bits 15:8. -/
def green (v : Rgb) : Byte := v.extractLsb' 8 8

/-- Blue component, bits 7:0. -/
def blue (v : Rgb) : Byte := v.extractLsb' 0 8

/-- `MemWrite(RAS, p, 3, v)` on the raster's bytes. -/
def storePixel (m : Memory) (p : Nat) (v : Rgb) : Memory :=
  ((m.write (rasOff p 0) (red v)).write (rasOff p 1) (green v)).write (rasOff p 2) (blue v)

/-- `MemWrite(RAS, p, 3, v)`. -/
def State.rasStore (s : State) (p : Nat) (v : Rgb) : State := { s with ras := storePixel s.ras p v }

/-- PIXEL_WRITE (42_pixel_expansion.md R170). -/
def State.pixelWrite (s : State) (x y : Nat) (col : Rgb) : State := s.rasStore (pixelIndex x y) col

/-! ### Registers -/

/-- `BA <- D; wBA <- 1` (43_host_interface.md R200). -/
def State.setBa (s : State) (d : Byte) : State := { s with ba := d, wBA := true }

/-- `BD <- D; wBD <- 1` (43_host_interface.md R202). -/
def State.setBd (s : State) (d : Byte) : State := { s with bd := d, wBD := true }

/-- The byte a host read returns (43_host_interface.md R190). -/
def State.setRdata (s : State) (b : Byte) : State := { s with rdata := b }

/-- Write the engine's working registers (10_state.md R42). -/
def State.setCell (s : State) (r : CellRegs) : State := { s with cell := r }

/-- `c <- c + 1` (10_state.md R38). -/
def State.advanceCell (s : State) : State := { s with c := s.c + 1#8 }

/-- The host's program from here on (log 1). -/
def State.setHost (s : State) (p : List HostLine) : State := { s with host := p }

/-- The schedule from here on (log 1). -/
def State.setSched (s : State) (q : List Turn) : State := { s with sched := q }

/-- The reset state, taken in a cycle with `rst = 1` (70_reset_and_hazards.md R270 to R272; log 14). The host's program
and the schedule stand outside the block and stay. -/
def State.takeReset (s : State) : State := { State.reset with host := s.host, sched := s.sched }

/-! ### Sequencing -/

/-- Go on from a next state; a stop stays a stop. -/
def andThen (r : Result) (f : State → Result) : Result :=
  match r with
  | .next s => f s
  | .fault e => .fault e
  | .refused e => .refused e

/-- Run a body for each of a list of indexes, in order. -/
def forEach : List Nat → (Nat → State → Result) → State → Result
  | [], _, s => .next s
  | i :: is, body, s => andThen (body i s) (forEach is body)

end Sys2Proof.Machine
end

