-- ==== Sys2Proof/Machine/Flags.lean ====
section
/-! DEFINITION. The flags: `STATUS` and its updates, `INV`, `MC`, `done_o` (10_state.md R33 to R37, R43, R44; 60_exceptions.md). -/

namespace Sys2Proof.Machine

/-- `STATUS` as the host reads it: `{0000, CMDERR, RV, DONE, BUSY}` (R33, 43_host_interface.md R199). -/
def State.status (s : State) : Byte :=
  0#4 ++ BitVec.ofBool s.cmderr ++ BitVec.ofBool s.rv ++ BitVec.ofBool s.done ++ BitVec.ofBool s.busy

/-- The output `done_o`, equal to `STATUS.DONE` (R44, 60_exceptions.md R247). -/
def State.doneO (s : State) : Bool := s.done

/-- A rejection: `CMDERR <- 1` and nothing else (60_exceptions.md R241, R244). -/
def State.reject (s : State) : State := { s with cmderr := true }

/-- ACK: `DONE <- 0; CMDERR <- 0` (43_host_interface.md R195). -/
def State.acknowledge (s : State) : State := { s with done := false, cmderr := false }

/-- An accepted START's counter and status: `c <- 0; BUSY <- 1; DONE <- 0; RV <- 0` (43_host_interface.md R194). -/
def State.beginRun (s : State) : State := { s with c := 0#8, busy := true, done := false, rv := false }

/-- COMPLETE: `BUSY <- 0; DONE <- 1; RV <- 1` (42_pixel_expansion.md R171). -/
def State.complete (s : State) : State := { s with busy := false, done := true, rv := true }

/-- The inverse flag: `LBA[3] == 0` (41_cell_setup.md R131). -/
def inverseFlag (a : Byte) : Bool := fieldNRM a == 0#1

/-- The multicolor flag: `n[3]` (41_cell_setup.md R136). -/
def multicolorFlag (n : BitVec 4) : Bool := n.extractLsb' 3 1 == 1#1

end Sys2Proof.Machine
end

