-- ==== Sys2Proof/Machine/Palette.lean ====
section
/-! DEFINITION. The palette ROM (10_state.md R24, 40_palette.md R120 to R124). -/

namespace Sys2Proof.Machine

/-- The palette contents, in index order (R121); the one named table of R124 (log 16). -/
def palTable : Vector Rgb 16 :=
  #v[0x000000, 0xFFFFFF, 0x941701, 0x52C6D4, 0x901CCC, 0x51BE08, 0x311AD5, 0xC4D71C,
     0xA35100, 0xD0B016, 0xE97969, 0x84F3FF, 0xDD73FF, 0x8EF64F, 0x8570FF, 0xF2FF54]

/-- PAL: the colour of a 4-bit index; no index is out of range (R120). -/
def pal (i : BitVec 4) : Rgb := palTable[i.toNat]'i.isLt

end Sys2Proof.Machine
end

