-- ==== Sys2Proof/Machine/CellSetup.lean ====
section
/-! DEFINITION. Frame setup, cell setup and the three cell operations (41_cell_setup.md). -/

namespace Sys2Proof.Machine

/-- FRAME_SETUP: latch the control bytes, `INV` and `SLOT3` (R130 to R132). -/
def State.frameSetup (s : State) : State :=
  { s with lba := s.ba, lbd := s.bd, inv := inverseFlag s.ba, slot3 := pal (fieldC3 s.bd) }

/-- SLOT_ADJUST: the multicolor swap, else the inverse swap, then `S3 <- SLOT3` (R140). -/
def slotAdjust (inv : Bool) (slot3 : Rgb) (r : CellRegs) : CellRegs :=
  if r.mc then { r with s1 := r.s2, s2 := r.s1, s3 := slot3 }
  else if inv then { r with s0 := r.s1, s1 := r.s0, s3 := slot3 }
  else { r with s3 := slot3 }

/-- CELL_SETUP's working registers for the current cell (R133 to R139, then R140). -/
def State.setupRegs (s : State) : CellRegs :=
  let x1 := cellCol s.c
  let y1 := cellRow s.c
  let cm := s.payByte (cmOff x1 y1)
  let n := nibbleSelect cm x1
  slotAdjust s.inv s.slot3
    { s.cell with
      cm := cm, n := n, mc := multicolorFlag n, c1 := nibbleColour n,
      s0 := pal (fieldBG s.lba), s1 := pal (zext4 (nibbleColour n)), s2 := pal (zext4 (fieldC2 s.lba)) }

/-- CELL_SETUP (R133). -/
def State.cellSetup (s : State) : State := s.setCell s.setupRegs

/-- The four slots of a cell, the other working registers kept. -/
def State.setSlots (s : State) (a b c d : Rgb) : State :=
  s.setCell { s.cell with s0 := a, s1 := b, s2 := c, s3 := d }

/-- CELL_MC: background, low colour, cell colour, border; `NRM` is not read (R141; log 10). -/
def execCellMc (_nrm : BitVec 1) (s : State) : Result :=
  .next (s.setSlots (pal (fieldBG s.lba)) (pal (zext4 (fieldC2 s.lba))) (pal (zext4 s.cell.c1)) s.slot3)

/-- CELL_HR_NORMAL: slot 0 the background, slot 1 the cell colour (R142; log 10). -/
def execCellHrNormal (s : State) : Result :=
  .next (s.setSlots (pal (fieldBG s.lba)) (pal (zext4 s.cell.c1)) (pal (zext4 (fieldC2 s.lba))) s.slot3)

/-- CELL_HR_INVERSE: slot 0 the cell colour, slot 1 the background (R143; log 10). -/
def execCellHrInverse (s : State) : Result :=
  .next (s.setSlots (pal (zext4 s.cell.c1)) (pal (fieldBG s.lba)) (pal (zext4 (fieldC2 s.lba))) s.slot3)

end Sys2Proof.Machine
end

