-- ==== Sys2Proof/Machine/HostInterface.lean ====
section
/-! DEFINITION. The seventeen host operations (43_host_interface.md R191 to R207). -/

namespace Sys2Proof.Machine

/-- SB_PAY: rejected while BUSY, else the byte is stored and marked written (R191). -/
def execSbPay (a : HostAddr) (d : Byte) (s : State) : Result :=
  if s.busy then .next s.reject else .next (s.payStore a.toNat d)

/-- LB_PAY: the stored byte, or the model fault where nothing has written it (R192). -/
def execLbPay (a : HostAddr) (_d : Byte) (s : State) : Result :=
  match s.pay.read? a.toNat with
  | none => .fault .unwrittenRead
  | some b => .next (s.setRdata b)

/-- CMD_NOP: no state changes (R193). -/
def execCmdNop (s : State) : Result := .next s

/-- CMD_START: rejected while BUSY, a model fault with an unwritten input, else a run begins (R194). -/
def execCmdStart (s : State) : Result :=
  if s.busy then .next s.reject
  else if s.inputsWritten then .next s.frameSetup.beginRun
  else .fault .unwrittenInput

/-- CMD_ACK (R195). -/
def execCmdAck (s : State) : Result := .next s.acknowledge

/-- CMD_RSV: `CMDERR <- 1` (R196). -/
def execCmdRsv (_d : Byte) (s : State) : Result := .next s.reject

/-- LB_CMD: reads 0x00 (R197). -/
def execLbCmd (_d : Byte) (s : State) : Result := .next (s.setRdata 0x00#8)

/-- SB_STATUS: ignored (R198). -/
def execSbStatus (_d : Byte) (s : State) : Result := .next s

/-- LB_STATUS: `{0000, CMDERR, RV, DONE, BUSY}` (R199). -/
def execLbStatus (_d : Byte) (s : State) : Result := .next (s.setRdata s.status)

/-- SB_BA: stored at any time (R200). -/
def execSbBa (d : Byte) (s : State) : Result := .next (s.setBa d)

/-- LB_BA: the register, not the latch; the model fault where nothing has written it (R201). -/
def execLbBa (_d : Byte) (s : State) : Result :=
  if s.wBA then .next (s.setRdata s.ba) else .fault .unwrittenRead

/-- SB_BD: all eight bits stored at any time (R202). -/
def execSbBd (d : Byte) (s : State) : Result := .next (s.setBd d)

/-- LB_BD: the register, not the latch; the model fault where nothing has written it (R203). -/
def execLbBd (_d : Byte) (s : State) : Result :=
  if s.wBD then .next (s.setRdata s.bd) else .fault .unwrittenRead

/-- SB_RAS: ignored (R204). -/
def execSbRas (_a : HostAddr) (_d : Byte) (s : State) : Result := .next s

/-- Component `k` of a colour: 0 red, 1 green, else blue (R205). -/
def component (v : Rgb) (k : Nat) : Byte := if k = 0 then red v else if k = 1 then green v else blue v

/-- LB_RAS: 0x00 while `RV = 0`, else a component of a pixel (R205). -/
def execLbRas (a : HostAddr) (_d : Byte) (s : State) : Result :=
  let q := a.toNat - 0x20000
  if s.rv then .next (s.setRdata (component (s.rasPixel (q / 3)) (q % 3))) else .next (s.setRdata 0x00#8)

/-- SB_RSV: ignored (R206). -/
def execSbRsv (_a : HostAddr) (_d : Byte) (s : State) : Result := .next s

/-- LB_RSV: reads 0x00 (R207). -/
def execLbRsv (_a : HostAddr) (_d : Byte) (s : State) : Result := .next (s.setRdata 0x00#8)

end Sys2Proof.Machine
end

