-- ==== Sys2Proof/Machine/PixelCodes.lean ====
section
/-! DEFINITION. The pixel codes: which slot a code selects (42_pixel_expansion.md R163, R164, R166 to R169; log 11). -/

namespace Sys2Proof.Machine

/-- `col <- v`. -/
def State.setCol (s : State) (v : Rgb) : State := s.setCell { s.cell with col := v }

/-- HRPIX_0: `col <- S0` (R163). -/
def execHrpix0 (s : State) : Result := .next (s.setCol s.cell.s0)

/-- HRPIX_1: `col <- S1` (R164). -/
def execHrpix1 (s : State) : Result := .next (s.setCol s.cell.s1)

/-- MCPIX_00: `col <- S0` (R166). -/
def execMcpix00 (s : State) : Result := .next (s.setCol s.cell.s0)

/-- MCPIX_01: `col <- S1` (R167). -/
def execMcpix01 (s : State) : Result := .next (s.setCol s.cell.s1)

/-- MCPIX_10: `col <- S2` (R168). -/
def execMcpix10 (s : State) : Result := .next (s.setCol s.cell.s2)

/-- MCPIX_11: `col <- S3` (R169). -/
def execMcpix11 (s : State) : Result := .next (s.setCol s.cell.s3)

end Sys2Proof.Machine
end

