-- ==== Sys2Proof/Machine/Dispatch.lean ====
section
/-! DEFINITION. One arm per operation of the opcode table. -/

namespace Sys2Proof.Machine

/-- The effect of an instruction. -/
def exec (i : Instr) (s : State) : Host.Outcome State Fault Refusal :=
  match i with
  -- host transactions (43_host_interface.md)
  | .sbPay a d => Sys2Proof.Machine.execSbPay a d s
  | .lbPay a d => Sys2Proof.Machine.execLbPay a d s
  | .sbRsv a d => Sys2Proof.Machine.execSbRsv a d s
  | .lbRsv a d => Sys2Proof.Machine.execLbRsv a d s
  | .cmdNop => Sys2Proof.Machine.execCmdNop s
  | .cmdStart => Sys2Proof.Machine.execCmdStart s
  | .cmdAck => Sys2Proof.Machine.execCmdAck s
  | .cmdRsv d => Sys2Proof.Machine.execCmdRsv d s
  | .lbCmd d => Sys2Proof.Machine.execLbCmd d s
  | .sbStatus d => Sys2Proof.Machine.execSbStatus d s
  | .lbStatus d => Sys2Proof.Machine.execLbStatus d s
  | .sbBa d => Sys2Proof.Machine.execSbBa d s
  | .lbBa d => Sys2Proof.Machine.execLbBa d s
  | .sbBd d => Sys2Proof.Machine.execSbBd d s
  | .lbBd d => Sys2Proof.Machine.execLbBd d s
  | .sbRas a d => Sys2Proof.Machine.execSbRas a d s
  | .lbRas a d => Sys2Proof.Machine.execLbRas a d s
  -- cell operations (41_cell_setup.md)
  | .cellMc nrm => Sys2Proof.Machine.execCellMc nrm s
  | .cellHrNormal => Sys2Proof.Machine.execCellHrNormal s
  | .cellHrInverse => Sys2Proof.Machine.execCellHrInverse s
  -- pixel codes (42_pixel_expansion.md)
  | .hrpix0 => Sys2Proof.Machine.execHrpix0 s
  | .hrpix1 => Sys2Proof.Machine.execHrpix1 s
  | .mcpix00 => Sys2Proof.Machine.execMcpix00 s
  | .mcpix01 => Sys2Proof.Machine.execMcpix01 s
  | .mcpix10 => Sys2Proof.Machine.execMcpix10 s
  | .mcpix11 => Sys2Proof.Machine.execMcpix11 s

end Sys2Proof.Machine
end

