-- ==== Sys2Proof/Machine/Engine.lean ====
section
/-! DEFINITION. The engine's step: one whole cell (42_pixel_expansion.md R160 to R171). -/

namespace Sys2Proof.Machine

/-- BITMAP_FETCH: the bitmap byte of a scanline (R161). -/
def State.bitmapFetch (s : State) (x1 y1 y2 : Nat) : State :=
  s.setCell { s.cell with bm := s.payByte (bmOff x1 y1 y2) }

/-- One hi-res pixel: its code is decoded and executed, and the colour written (R162). -/
def hrPixel (x1 y1 y2 x2 : Nat) (s : State) : Result :=
  andThen (exec (decodeHrpix (hrCode s.cell.bm x2)) s)
    fun t => .next (t.pixelWrite (8 * x1 + x2) (16 * y1 + y2) t.cell.col)

/-- HR_ROW_EXPAND: eight 1-bit pixels (R162). -/
def hrRowExpand (x1 y1 y2 : Nat) (s : State) : Result := forEach [0, 1, 2, 3, 4, 5, 6, 7] (hrPixel x1 y1 y2) s

/-- One multicolor code: decoded and executed, and the colour written to both columns (R165). -/
def mcPixelPair (x1 y1 y2 x2 : Nat) (s : State) : Result :=
  andThen (exec (decodeMcpix (mcCode s.cell.bm x2)) s)
    fun t => .next ((t.pixelWrite (8 * x1 + x2) (16 * y1 + y2) t.cell.col).pixelWrite
      (8 * x1 + x2 + 1) (16 * y1 + y2) t.cell.col)

/-- MC_ROW_EXPAND: four 2-bit pixels, each two columns wide (R165). -/
def mcRowExpand (x1 y1 y2 : Nat) (s : State) : Result := forEach [0, 2, 4, 6] (mcPixelPair x1 y1 y2) s

/-- One scanline of a cell (R160). -/
def scanline (x1 y1 y2 : Nat) (s : State) : Result :=
  let t := s.bitmapFetch x1 y1 y2
  if t.cell.mc then mcRowExpand x1 y1 y2 t else hrRowExpand x1 y1 y2 t

/-- The scanline loop of a cell (R160). -/
def scanlines (x1 y1 : Nat) (s : State) : Result :=
  forEach [0, 1, 2, 3, 4, 5, 6, 7, 8, 9, 10, 11, 12, 13, 14, 15] (scanline x1 y1) s

/-- The end of a cell: `c <- c + 1`, COMPLETE at 240, the working registers gone (R160, R171, 10_state.md R42; log 4). -/
def State.finishCell (s : State) : State :=
  let t := (s.setCell CellRegs.idle).advanceCell
  if t.c.toNat = 240 then t.complete else t

/-- The cell operation that applies after CELL_SETUP, fetched by its key (R133, 30_encoding.md R96). -/
def cellOperation (s : State) : Result := exec (decodeCellsel (cellselKey s.cell.mc s.lba)) s

/-- CELL_STEP (R160). -/
def cellStep (s : State) : Result :=
  andThen (cellOperation s.cellSetup) fun t =>
    andThen (scanlines (cellCol s.c) (cellRow s.c) t) fun u => .next u.finishCell

/-- CELL_STEP is enabled iff `BUSY = 1` and `c < 240` (R160). -/
def engineEnabled (s : State) : Bool := s.busy && decide (s.c.toNat < 240)

/-- A turn of the engine; a disabled engine does nothing (R252; log 17). -/
def engineTurn (s : State) : Result := if engineEnabled s then cellStep s else .next s

/-- The engine alone, for a number of turns. -/
def engineRun : Nat → State → Result
  | 0, s => .next s
  | k + 1, s => andThen (engineTurn s) (engineRun k)

end Sys2Proof.Machine
end

