-- ==== Sys2Proof/Machine/HostProgram.lean ====
section
/-! DEFINITION. The host agent: its step, `poll`, and the host program language (43_host_interface.md R190, R208, R209;
30_encoding.md R106 to R108; 20_memory.md R62). -/

namespace Sys2Proof.Machine

/-- HOST_STEP: a transaction word is decoded and its operation performed (R190). -/
def hostTransaction (w : HbusWord) (s : State) : Result := exec (decodeHbus w) s

/-- One iteration of `poll`: a read, after which the line is done or stands as it was (R208). -/
def pollOnce (addr : HostAddr) (mask val : Byte) (rest : List HostLine) (s : State) : Result :=
  andThen (hostTransaction (hbusWord 0#1 addr 0#8) s)
    fun t => if t.rdata &&& mask = val then .next (t.setHost rest) else .next t

/-- A turn of the host: its next line; nothing when its program has ended (R209; log 17). -/
def hostTurn (s : State) : Result :=
  match s.host with
  | [] => .next s
  | .txn w :: rest => hostTransaction w (s.setHost rest)
  | .poll addr mask val :: rest => pollOnce addr mask val rest s

/-! ### The host program language (log 18) -/

/-- A line of the language, or a pseudo-instruction, with its operands already evaluated (R106 to R108). -/
inductive AsmLine
  | sb (addr imm : Nat)
  | lb (addr : Nat)
  | nop
  | start
  | ack
  | wba (v : Nat)
  | wbd (v : Nat)
  | rstat
  | wpay (o v : Nat)
  | fill (o n v : Nat)
  | poll (addr mask val : Nat)
  | wait
  | rdpx (x y : Nat)
  | load (f : List Byte)
  deriving DecidableEq, Repr

/-- `sb addr, imm8`; out of range is an assembly error (R106, R107). -/
def asmSb (addr imm : Nat) : Option HostLine :=
  if addr ≤ 0xFFFFF then
    if imm ≤ 255 then some (.txn (hbusWord 1#1 (BitVec.ofNat 20 addr) (BitVec.ofNat 8 imm))) else none
  else none

/-- `lb addr` (R106, R107). -/
def asmLb (addr : Nat) : Option HostLine :=
  if addr ≤ 0xFFFFF then some (.txn (hbusWord 0#1 (BitVec.ofNat 20 addr) 0#8)) else none

/-- `poll addr, mask, val` (R108). Refusing a mask or a value above 255 is a DESIGN CHOICE: R107 gives a range for `<imm8>`
and `<addr>` alone (log 18). -/
def asmPoll (addr mask val : Nat) : Option HostLine :=
  if addr ≤ 0xFFFFF then
    if mask ≤ 255 then
      if val ≤ 255 then some (.poll (BitVec.ofNat 20 addr) (BitVec.ofNat 8 mask) (BitVec.ofNat 8 val)) else none
    else none
  else none

/-- `wpay o, v`; the assembler refuses `o > 0xF77` (R108). -/
def asmWpay (o v : Nat) : Option HostLine := if o ≤ 0xF77 then asmSb o v else none

/-- Every line of a list, or an error if any line is one (R107). -/
def allLines : List (Option HostLine) → Option (List HostLine)
  | [] => some []
  | none :: _ => none
  | some l :: ls => match allLines ls with
    | none => none
    | some rest => some (l :: rest)

/-- The expansion of a line (R108, R62); `none` is an assembly error. `fill` is refused by its own check of `o+n-1`, also with
`n = 0`. DESIGN CHOICE: `load` of a file that is not 4097 bytes long, which no rule speaks of, is an assembly error, and `v`
in a `fill` of no bytes is not checked (log 18). -/
def AsmLine.expand : AsmLine → Option (List HostLine)
  | .sb addr imm => allLines [asmSb addr imm]
  | .lb addr => allLines [asmLb addr]
  | .nop => allLines [asmSb 0x01000 0x00]
  | .start => allLines [asmSb 0x01000 0x01]
  | .ack => allLines [asmSb 0x01000 0x02]
  | .wba v => allLines [asmSb 0x01002 v]
  | .wbd v => allLines [asmSb 0x01003 v]
  | .rstat => allLines [asmLb 0x01001]
  | .wpay o v => allLines [asmWpay o v]
  | .fill o n v => if o + n ≤ 0xF78 then allLines ((List.range n).map fun j => asmWpay (o + j) v) else none
  | .poll addr mask val => allLines [asmPoll addr mask val]
  | .wait => allLines [asmPoll 0x01001 0x03 0x02]
  | .rdpx x y =>
    let a := 0x20000 + 3 * (160 * y + x)
    allLines [asmLb a, asmLb (a + 1), asmLb (a + 2)]
  | .load f =>
    if f.length = 4097 then
      allLines (asmSb 0x01003 (f.getD 15 0).toNat :: asmSb 0x01002 (f.getD 16 0).toNat ::
        (List.range 3960).map fun o => asmWpay o (f.getD (17 + o) 0).toNat)
    else none

/-- A program: the expansions of its lines in order (R209). DESIGN CHOICE: with one refused line the program has no expansion,
where R107 speaks of the line alone (log 18). -/
def assemble : List AsmLine → Option (List HostLine)
  | [] => some []
  | l :: ls => match l.expand, assemble ls with
    | some xs, some ys => some (xs ++ ys)
    | _, _ => none

end Sys2Proof.Machine
end

