-- ==== Sys2Proof/Machine/Turns.lean ====
section
/-! DEFINITION. Whose turn it is, and placing a word where the next step fetches it (20_memory.md R71; 60_exceptions.md R243). -/

namespace Sys2Proof.Machine

/-- The turn the schedule gives; with an empty schedule the engine moves while it can, then the host (R281; log 1). -/
def State.nextTurn (s : State) : Turn :=
  match s.sched with
  | t :: _ => t
  | [] => if engineEnabled s then .engine else .host

/-- The state with the turn taken off the schedule. -/
def State.popTurn (s : State) : State := s.setSched s.sched.tail

/-- One turn of an agent, or a reset cycle (R71, 70_reset_and_hazards.md R270). -/
def takeTurn (t : Turn) (s : State) : Result :=
  match t with
  | .host => hostTurn s
  | .engine => engineTurn s
  | .rst => .next s.takeReset

/-! ### Placing a word (log 13) -/

/-- A payload byte, written with 0 where nothing has written it. -/
def State.payFilled (s : State) (o : Nat) : State :=
  match s.pay.read? o with
  | some _ => s
  | none => s.payStore o 0#8

/-- The sixteen bitmap bytes of the current cell after a change. -/
def State.mapBitmap (s : State) (f : State → Nat → State) : State :=
  [0, 1, 2, 3, 4, 5, 6, 7, 8, 9, 10, 11, 12, 13, 14, 15].foldl
    (fun t y2 => f t (bmOff (cellCol s.c) (cellRow s.c) y2)) s

/-- A run in progress whose next step decodes a cell, with the engine's turn next. -/
def State.runInProgress (s : State) : State :=
  let t := { s with busy := true, done := false, rv := false, sched := .engine :: s.sched }
  if t.c.toNat < 240 then t else { t with c := 0#8 }

/-- A colour-map byte with the multicolor bit of one cell column set or cleared. -/
def withMulticolorBit (cm : Byte) (x1 : Nat) (mc : Bool) : Byte :=
  let bit : Byte := if x1 % 2 = 0 then 0x08#8 else 0x80#8
  if mc then cm ||| bit else cm &&& ~~~bit

/-- The current cell's multicolor bit, in the colour map. -/
def State.placeMulticolor (s : State) (mc : Bool) : State :=
  let o := cmOff (cellCol s.c) (cellRow s.c)
  s.payStore o (withMulticolorBit ((s.pay.read? o).getD 0#8) (cellCol s.c) mc)

/-- The latched normal-video bit, with the inverse latch that follows from it. -/
def State.placeNormal (s : State) (nrm : Bool) : State :=
  let a : Byte := if nrm then s.lba ||| 0x08#8 else s.lba &&& 0xF7#8
  { s with lba := a, inv := inverseFlag a }

/-- A word where the next step fetches it. A transaction word: the host's next line, with its turn next. A cell key: a run
in progress whose current cell has that key. A pixel code: a run whose current cell has that code in every pixel. -/
def State.placeWord (s : State) : CodeWord → State
  | .hbus w => { s with host := .txn w :: s.host, sched := .host :: s.sched }
  | .cellsel k =>
    let t := (s.runInProgress.placeMulticolor (k.extractLsb' 1 1 == 1#1)).placeNormal (k.extractLsb' 0 1 == 1#1)
    t.mapBitmap fun u o => u.payFilled o
  | .hrpix b =>
    let t := s.runInProgress.placeMulticolor false
    t.mapBitmap fun u o => u.payStore o (if b = 0#1 then 0x00#8 else 0xFF#8)
  | .mcpix v =>
    let t := s.runInProgress.placeMulticolor true
    t.mapBitmap fun u o => u.payStore o (v ++ v ++ v ++ v)

end Sys2Proof.Machine
end

