-- ==== Sys2Proof/Machine/Step.lean ====
section
/-! DEFINITION. One step of the machine (20_memory.md R71): the next turn of the interleaving. -/

namespace Sys2Proof.Machine

/-- One atomic step of one agent, or one reset cycle. -/
def step (s : State) : Host.Outcome State Fault Refusal := takeTurn s.nextTurn s.popTurn

/-- `s` with a table word placed where `step` fetches its next operation; unchanged where the bits are no word (log 12, log 13). -/
def State.withFetchWord (s : State) (nbits w : Nat) : State :=
  match readTableWord nbits w with
  | .ok cw => s.placeWord cw
  | .error _ => s

end Sys2Proof.Machine
end

