-- ==== Sys2Proof/Machine/ClosedForm.lean ====
section
/-! DEFINITION. The closed form of a decode (42_pixel_expansion.md R173), written apart from the engine. -/

namespace Sys2Proof.Machine

/-- DEC: the colour of pixel `(x, y)` for a payload and the two control bytes (R173). -/
def dec (p : Nat → Byte) (a d : Byte) (x y : Nat) : Rgb :=
  let x1 := x / 8
  let x2 := x % 8
  let y1 := y / 16
  let bm := p (192 * x1 + y)
  let cm := p (3840 + 10 * y1 + x1 / 2)
  let n : BitVec 4 := if x1 % 2 = 0 then cm.extractLsb' 0 4 else cm.extractLsb' 4 4
  let bg := pal (a.extractLsb' 4 4)
  let lo := pal ((a.extractLsb' 0 3).setWidth 4)
  let cc := pal ((n.extractLsb' 0 3).setWidth 4)
  let bd := pal (d.extractLsb' 4 4)
  if n.getLsbD 3 then
    let v := (bm >>> (6 - (x2 &&& 6))) &&& 3#8
    if v = 0#8 then bg else if v = 1#8 then lo else if v = 2#8 then cc else bd
  else
    let b := (bm >>> (7 - x2)) &&& 1#8
    if a.getLsbD 3 then (if b = 0#8 then bg else cc) else (if b = 0#8 then cc else bg)

end Sys2Proof.Machine
end

