-- ==== Sys2Proof/Safety.lean ====
section
/-! DEFINITION. The facts that hold between steps, in the terms the claims use. -/

namespace Sys2Proof.Machine

/-- Every byte of the raster RAM has been written by the engine (42_pixel_expansion.md R174). -/
def State.rasterFull (s : State) : Prop := ∀ q, q < 92160 → (s.ras.read? q).isSome = true

/-- Every byte of the payload RAM has been written by the host (10_state.md R22). -/
def State.payloadFull (s : State) : Prop := ∀ o, o < 3960 → s.wPAY o = true

/-- The bytes of the cells before `c` have been written by the engine. -/
def State.cellsDone (s : State) : Prop :=
  ∀ x y k, x < 160 → y < 192 → k < 3 → 20 * (y / 16) + x / 8 < s.c.toNat →
    (s.ras.read? (rasOff (pixelIndex x y) k)).isSome = true

/-- The next step is the host's operation `i` (43_host_interface.md R190). -/
def State.nextIs (s : State) (i : Instr) : Prop :=
  s.nextTurn = .host ∧ ∃ w rest, s.host = .txn w :: rest ∧ decode (.hbus w) = i

/-- The next step is a START that is not rejected; if it answers a next state it is accepted (R194). -/
def State.acceptsStart (s : State) : Prop := s.nextIs .cmdStart ∧ s.busy = false

/-- The next step is the CELL_STEP of the last cell, which performs COMPLETE (42_pixel_expansion.md R171). -/
def State.completes (s : State) : Prop := s.nextTurn = .engine ∧ s.busy = true ∧ s.c.toNat = 239

/-- The next step is one of the three rejections (60_exceptions.md R241). -/
def State.rejects (s : State) : Prop :=
  (s.nextIs .cmdStart ∧ s.busy = true) ∨ (∃ a d, s.nextIs (.sbPay a d) ∧ s.busy = true) ∨ ∃ d, s.nextIs (.cmdRsv d)

/-- The invariant of the machine between steps. -/
structure State.Inv (s : State) : Prop where
  /-- The payload RAM is canonical and inside 0..3959 (10_state.md R21). -/
  payWf : s.pay.wf
  payBelow : s.pay.below 3960
  /-- The raster RAM is canonical and inside the raster window (10_state.md R23). -/
  rasWf : s.ras.wf
  rasBelow : s.ras.below 92160
  /-- `BUSY` and `DONE` are never both 1 (10_state.md R35). -/
  notBusyDone : ¬ (s.busy = true ∧ s.done = true)
  /-- The raster is not valid during a run (10_state.md R36). -/
  busyRv : s.busy = true → s.rv = false
  /-- A completed run that has not been acknowledged left a valid raster. -/
  doneRv : s.done = true → s.rv = true
  /-- During a run a cell remains to be decoded (42_pixel_expansion.md R160). -/
  busyC : s.busy = true → s.c.toNat < 240
  /-- During a run the latches hold FRAME_SETUP's values (41_cell_setup.md R131, R132). -/
  busyInv : s.busy = true → s.inv = inverseFlag s.lba
  busySlot3 : s.busy = true → s.slot3 = pal (fieldC3 s.lbd)
  /-- During a run every input is written (43_host_interface.md R194). -/
  busyInputs : s.busy = true → s.wBA = true ∧ s.wBD = true ∧ s.payloadFull
  /-- During a run the cells before `c` are in the raster RAM. -/
  busyCells : s.busy = true → s.cellsDone
  /-- A valid raster is complete (43_host_interface.md R205). -/
  rvFull : s.rv = true → s.rasterFull
  /-- No working register survives an engine step (10_state.md R42; log 4). -/
  cellIdle : s.cell = CellRegs.idle

end Sys2Proof.Machine
end

