-- ==== Sys2Proof/Certificates/Slice0/Obligations.lean ====
section
/-! DEFINITION. The statements for the provers: what the rules of the spec say the block does. -/

open Sys2Proof Sys2Proof.Machine

/-! ### Encodings -/

/-- 30_encoding.md R96, R98, R99, R103 and the decode corners of 95_test_vectors.md L2.5, word by word. -/
def Obligations.SampleWordsDecodeAsTheSpecLists : Prop :=
  decode (.hbus 0x1000001B#29) = .sbPay 0x00000#20 0x1B#8
    ∧ decode (.hbus 0x100F7700#29) = .sbPay 0x00F77#20 0x00#8
    ∧ decode (.hbus 0x100F7800#29) = .sbRsv 0x00F78#20 0x00#8
    ∧ decode (.hbus 0x10100001#29) = .cmdStart
    ∧ decode (.hbus 0x101000FF#29) = .cmdRsv 0xFF#8
    ∧ decode (.hbus 0x00100055#29) = .lbCmd 0x55#8
    ∧ decode (.hbus 0x1010021A#29) = .sbBa 0x1A#8
    ∧ decode (.hbus 0x02000000#29) = .lbRas 0x20000#20 0x00#8
    ∧ decode (.hbus 0x03680000#29) = .lbRsv 0x36800#20 0x00#8
    ∧ decode (.cellsel 0b11#2) = .cellMc 1#1
    ∧ decode (.cellsel 0b01#2) = .cellHrNormal
    ∧ decode (.cellsel 0b00#2) = .cellHrInverse
    ∧ decode (.hrpix 1#1) = .hrpix1
    ∧ decode (.mcpix 0b10#2) = .mcpix10

/-- 30_encoding.md sections 3 and 4: no operand bit of an encoding is dropped. -/
def Obligations.DecodeOfEncodeIsTheInstruction : Prop :=
  ∀ i : Instr, i.wf = true → decode (encode i) = i

/-- 30_encoding.md sections 3 and 4: every word decodes to a well-formed instruction whose encoding is that word. -/
def Obligations.EncodeOfDecodeIsTheWord : Prop :=
  ∀ cw : CodeWord, (decode cw).wf = true ∧ encode (decode cw) = cw

/-- 30_encoding.md section 4: exactly one row of the opcode table covers a word, and it is the decoded operation's. -/
def Obligations.ExactlyOneTableRowCoversEveryWord : Prop :=
  ∀ cw : CodeWord, coveringOps cw = [(decode cw).op]

/-! ### A step runs the decoded instruction -/

/-- 43_host_interface.md R190: at the host's turn, a step is `exec` of the instruction its next transaction encodes, at the
state with that line and that turn taken off. The turn is taken off the schedule by the model (log 1). -/
def Obligations.HostTurnRunsTheDecodedTransaction : Prop :=
  (∀ (s : State) (w : HbusWord) (rest : List HostLine), s.nextTurn = .host → s.host = .txn w :: rest →
      step s = exec (decode (.hbus w)) { s with host := rest, sched := s.sched.tail })
    ∧ ∀ (s : State) (i : Instr) (w : HbusWord) (rest : List HostLine), i.wf = true → encode i = .hbus w →
        s.nextTurn = .host → s.host = .txn w :: rest →
        step s = exec i { s with host := rest, sched := s.sched.tail }

/-- 42_pixel_expansion.md R160, 41_cell_setup.md R133: at the engine's turn with the engine enabled, a step is CELL_SETUP,
`exec` of the cell operation the key `{MC, LBA[3]}` decodes to, the scanline loop and the end of the cell. Whose turn it is,
and that the turn is taken off the schedule, is the model's choice (log 1). -/
def Obligations.EngineTurnRunsTheDecodedCellOperation : Prop :=
  ∀ s : State, s.nextTurn = .engine → s.busy = true → s.c.toNat < 240 →
    let u := ({ s with sched := s.sched.tail } : State).cellSetup
    step s = andThen (exec (decode (.cellsel (BitVec.ofBool u.cell.mc ++ s.lba.extractLsb' 3 1))) u) fun t =>
      andThen (scanlines (s.c.toNat % 20) (s.c.toNat / 20) t) fun v => .next v.finishCell

/-- 42_pixel_expansion.md R162, R165: each pixel of a row is `exec` of its decoded code, and the colour written. -/
def Obligations.RowPixelsRunTheDecodedCodes : Prop :=
  ∀ (x1 y1 y2 x2 : Nat) (s : State),
    hrPixel x1 y1 y2 x2 s
        = andThen (exec (decode (.hrpix (s.cell.bm.extractLsb' (7 - x2) 1))) s)
            (fun t => .next (t.pixelWrite (8 * x1 + x2) (16 * y1 + y2) t.cell.col))
      ∧ mcPixelPair x1 y1 y2 x2 s
        = andThen (exec (decode (.mcpix (s.cell.bm.extractLsb' (6 - x2) 2))) s)
            (fun t => .next ((t.pixelWrite (8 * x1 + x2) (16 * y1 + y2) t.cell.col).pixelWrite
              (8 * x1 + x2 + 1) (16 * y1 + y2) t.cell.col))

/-- 43_host_interface.md R208: one iteration of `poll` is the read of its address; the line is done when the masked byte
matches and stands as it was when it does not. That the line then stays the host's next one, and that the turn is taken off
the schedule, is the model's choice (log 1). -/
def Obligations.PollRepeatsItsReadUntilTheByteMatches : Prop :=
  ∀ (s t : State) (a : HostAddr) (m v : Byte) (rest : List HostLine),
    s.nextTurn = .host → s.host = .poll a m v :: rest →
    exec (decode (.hbus (hbusWord 0#1 a 0x00#8))) { s with sched := s.sched.tail } = .next t →
    t.host = s.host ∧ step s = .next (if t.rdata &&& m = v then { t with host := rest } else t)

/-! ### The palette -/

/-- 40_palette.md R120, R121: the sixteen entries. -/
def Obligations.PaletteHoldsTheSixteenColours : Prop :=
  pal 0#4 = 0x000000#24 ∧ pal 1#4 = 0xFFFFFF#24 ∧ pal 2#4 = 0x941701#24 ∧ pal 3#4 = 0x52C6D4#24
    ∧ pal 4#4 = 0x901CCC#24 ∧ pal 5#4 = 0x51BE08#24 ∧ pal 6#4 = 0x311AD5#24 ∧ pal 7#4 = 0xC4D71C#24
    ∧ pal 8#4 = 0xA35100#24 ∧ pal 9#4 = 0xD0B016#24 ∧ pal 10#4 = 0xE97969#24 ∧ pal 11#4 = 0x84F3FF#24
    ∧ pal 12#4 = 0xDD73FF#24 ∧ pal 13#4 = 0x8EF64F#24 ∧ pal 14#4 = 0x8570FF#24 ∧ pal 15#4 = 0xF2FF54#24

/-! ### Host operations -/

/-- 43_host_interface.md R191: SB_PAY stores the byte and marks it written, and every other byte of the payload and all
else stay; while BUSY it sets `CMDERR` and nothing else. -/
def Obligations.SbPayStoresTheByteOrIsRejected : Prop :=
  ∀ (s : State) (a : HostAddr) (d : Byte), a.toNat ≤ 0xF77 →
    (s.busy = true → exec (.sbPay a d) s = .next { s with cmderr := true })
      ∧ (s.busy = false → ∃ t, exec (.sbPay a d) s = .next t ∧ t = { s with pay := t.pay }
          ∧ t.pay.read? a.toNat = some d ∧ t.wPAY a.toNat = true
          ∧ (∀ o, o ≠ a.toNat → t.pay.read? o = s.pay.read? o)
          ∧ ∀ q, t.rasByte q = s.rasByte q)

/-- 43_host_interface.md R192: LB_PAY returns the stored byte, also while BUSY, and faults where nothing has written it. -/
def Obligations.LbPayReturnsTheByteOrFaults : Prop :=
  ∀ (s : State) (a : HostAddr) (d : Byte), a.toNat ≤ 0xF77 →
    (s.wPAY a.toNat = false → exec (.lbPay a d) s = .fault .unwrittenRead)
      ∧ ∀ b, s.pay.read? a.toNat = some b → exec (.lbPay a d) s = .next { s with rdata := b }

/-- 43_host_interface.md R193, R198, R204, R206: NOP and the ignored writes change nothing, in every state. -/
def Obligations.IgnoredWritesChangeNothing : Prop :=
  ∀ (s : State) (a : HostAddr) (d : Byte),
    exec .cmdNop s = .next s ∧ exec (.sbStatus d) s = .next s
      ∧ (inRaster a = true → exec (.sbRas a d) s = .next s) ∧ (inReserved a = true → exec (.sbRsv a d) s = .next s)

/-- 43_host_interface.md R194 with 41_cell_setup.md R130 to R132: START is rejected while BUSY, faults with an unwritten
input, and otherwise latches the control bytes, `INV` and `SLOT3`, and begins a run. -/
def Obligations.StartBeginsARunOrIsRejectedOrFaults : Prop :=
  ∀ s : State,
    (s.busy = true → exec .cmdStart s = .next { s with cmderr := true })
      ∧ (s.busy = false → (s.wBA = false ∨ s.wBD = false ∨ ∃ o, o < 3960 ∧ s.wPAY o = false) →
          exec .cmdStart s = .fault .unwrittenInput)
      ∧ (s.busy = false → s.wBA = true → s.wBD = true → (∀ o, o < 3960 → s.wPAY o = true) →
          exec .cmdStart s = .next
            { s with lba := s.ba, lbd := s.bd, inv := !s.ba.getLsbD 3, slot3 := pal (s.bd.extractLsb' 4 4),
                     c := 0#8, busy := true, done := false, rv := false })

/-- 43_host_interface.md R195. -/
def Obligations.AckClearsDoneAndCmderr : Prop :=
  ∀ s : State, exec .cmdAck s = .next { s with done := false, cmderr := false }

/-- 43_host_interface.md R196. -/
def Obligations.ReservedCommandSetsCmderrAlone : Prop :=
  ∀ (s : State) (d : Byte), 3 ≤ d.toNat → exec (.cmdRsv d) s = .next { s with cmderr := true }

/-- 43_host_interface.md R197, R207. -/
def Obligations.CommandAndReservedAddressesReadZero : Prop :=
  ∀ (s : State) (a : HostAddr) (d : Byte),
    exec (.lbCmd d) s = .next { s with rdata := 0x00#8 }
      ∧ (inReserved a = true → exec (.lbRsv a d) s = .next { s with rdata := 0x00#8 })

/-- 43_host_interface.md R199, 10_state.md R33: the status byte bit by bit, and no side effect. -/
def Obligations.LbStatusReturnsTheFourFlags : Prop :=
  ∀ (s : State) (d : Byte), ∃ b : Byte, exec (.lbStatus d) s = .next { s with rdata := b }
    ∧ b.getLsbD 0 = s.busy ∧ b.getLsbD 1 = s.done ∧ b.getLsbD 2 = s.rv ∧ b.getLsbD 3 = s.cmderr
    ∧ ∀ k, 4 ≤ k → b.getLsbD k = false

/-- 43_host_interface.md R200, R202: the control registers take all eight bits and their written-marks, at any time. -/
def Obligations.ControlRegisterWritesStoreTheByte : Prop :=
  ∀ (s : State) (d : Byte),
    exec (.sbBa d) s = .next { s with ba := d, wBA := true } ∧ exec (.sbBd d) s = .next { s with bd := d, wBD := true }

/-- 43_host_interface.md R201, R203: the control registers read back, not the latches; unwritten ones fault. -/
def Obligations.ControlRegisterReadsReturnTheRegisterOrFault : Prop :=
  ∀ (s : State) (d : Byte),
    (s.wBA = true → exec (.lbBa d) s = .next { s with rdata := s.ba })
      ∧ (s.wBA = false → exec (.lbBa d) s = .fault .unwrittenRead)
      ∧ (s.wBD = true → exec (.lbBd d) s = .next { s with rdata := s.bd })
      ∧ (s.wBD = false → exec (.lbBd d) s = .fault .unwrittenRead)

/-- 43_host_interface.md R205: a raster read gives 0x00 while `RV = 0`, else the red, green or blue byte of the pixel. -/
def Obligations.LbRasReturnsAComponentWhenTheRasterIsValid : Prop :=
  ∀ (s : State) (a : HostAddr) (d : Byte), inRaster a = true →
    (s.rv = false → exec (.lbRas a d) s = .next { s with rdata := 0x00#8 })
      ∧ ∀ p k, p < 30720 → k < 3 → a.toNat = 0x20000 + 3 * p + k → s.rv = true →
          exec (.lbRas a d) s = .next
            { s with rdata := if k = 0 then (s.rasPixel p).extractLsb' 16 8
                              else if k = 1 then (s.rasPixel p).extractLsb' 8 8 else (s.rasPixel p).extractLsb' 0 8 }

/-- 20_memory.md section 3: with a valid raster the window delivers the raster's bytes in ascending order. -/
def Obligations.RasterWindowDeliversTheBytesInOrder : Prop :=
  ∀ (s : State) (a : HostAddr) (d b : Byte), inRaster a = true → s.rv = true →
    s.ras.read? (a.toNat - 0x20000) = some b → exec (.lbRas a d) s = .next { s with rdata := b }

/-- 20_memory.md section 4: a read that answers changes nothing but the byte it returns. -/
def Obligations.ReadsHaveNoSideEffect : Prop :=
  ∀ (s t : State) (a : HostAddr) (d : Byte) (i : Instr),
    i ∈ [Instr.lbPay a d, .lbRsv a d, .lbCmd d, .lbStatus d, .lbBa d, .lbBd d, .lbRas a d] →
    exec i s = .next t → t = { s with rdata := t.rdata }

/-- 43_host_interface.md R225: the host's liberties leave the run in progress and its result alone and never set `CMDERR`. -/
def Obligations.HostLibertiesNeverHarmARun : Prop :=
  ∀ (s t : State) (a : HostAddr) (d : Byte) (i : Instr),
    i ∈ [Instr.lbPay a d, .lbRsv a d, .lbCmd d, .lbStatus d, .lbBa d, .lbBd d, .lbRas a d, .sbBa d, .sbBd d, .cmdAck,
         .cmdNop, .sbStatus d, .sbRas a d, .sbRsv a d] →
    exec i s = .next t →
    (t.cmderr = true → s.cmderr = true) ∧ t.busy = s.busy ∧ t.rv = s.rv ∧ t.c = s.c ∧ t.lba = s.lba ∧ t.lbd = s.lbd
      ∧ t.inv = s.inv ∧ t.slot3 = s.slot3 ∧ t.cell = s.cell
      ∧ (∀ o, t.pay.read? o = s.pay.read? o) ∧ ∀ q, t.rasByte q = s.rasByte q

/-- 60_exceptions.md R242: with `CMDERR = 1` every operation behaves as with `CMDERR = 0`, except that a read of `STATUS`
shows bit 3 set; no operation but ACK clears it. -/
def Obligations.CmderrBlocksNoOperation : Prop :=
  ∀ (i : Instr) (s : State), s.cmderr = false →
    match exec i s with
    | .next t => ∃ t', exec i { s with cmderr := true } = .next t'
        ∧ t' = { t with cmderr := t'.cmderr, rdata := t'.rdata }
        ∧ t'.cmderr = (if i = .cmdAck then false else true)
        ∧ t'.rdata = (if i.op = .lbStatus then t.rdata ||| 0x08#8 else t.rdata)
    | .fault e => exec i { s with cmderr := true } = .fault e
    | .refused e => exec i { s with cmderr := true } = .refused e

/-! ### Cell operations and pixel codes -/

/-- 41_cell_setup.md section 3: the slots each cell operation gives, and nothing else. That the operation itself does no
more than give the slots, the expansion being CELL_STEP's, is the model's reading (log 10). -/
def Obligations.CellOperationsGiveTheirSlots : Prop :=
  ∀ (s : State) (nrm : BitVec 1),
    let bg := pal (s.lba.extractLsb' 4 4)
    let lo := pal ((s.lba.extractLsb' 0 3).setWidth 4)
    let cc := pal (s.cell.c1.setWidth 4)
    exec (.cellMc nrm) s = .next { s with cell := { s.cell with s0 := bg, s1 := lo, s2 := cc, s3 := s.slot3 } }
      ∧ exec .cellHrNormal s = .next { s with cell := { s.cell with s0 := bg, s1 := cc, s2 := lo, s3 := s.slot3 } }
      ∧ exec .cellHrInverse s = .next { s with cell := { s.cell with s0 := cc, s1 := bg, s2 := lo, s3 := s.slot3 } }

/-- 42_pixel_expansion.md sections 2 and 3: the slot each code selects, and nothing else. That `col` is a working register of
the engine is the model's reading (log 11). -/
def Obligations.PixelCodesSelectTheirSlots : Prop :=
  ∀ s : State,
    exec .hrpix0 s = .next { s with cell := { s.cell with col := s.cell.s0 } }
      ∧ exec .hrpix1 s = .next { s with cell := { s.cell with col := s.cell.s1 } }
      ∧ exec .mcpix00 s = .next { s with cell := { s.cell with col := s.cell.s0 } }
      ∧ exec .mcpix01 s = .next { s with cell := { s.cell with col := s.cell.s1 } }
      ∧ exec .mcpix10 s = .next { s with cell := { s.cell with col := s.cell.s2 } }
      ∧ exec .mcpix11 s = .next { s with cell := { s.cell with col := s.cell.s3 } }

/-- 41_cell_setup.md R133 to R140: every working register CELL_SETUP writes, and nothing else: `BM`, `col` and all state
outside the working registers are as they were. -/
def Obligations.CellSetupComputesTheWorkingRegisters : Prop :=
  ∀ s : State,
    let y1 := s.c.toNat / 20
    let x1 := s.c.toNat % 20
    let cm := s.payByte (3840 + (20 * y1 + x1) / 2)
    let n : BitVec 4 := if x1 % 2 = 0 then cm.extractLsb' 0 4 else cm.extractLsb' 4 4
    let bg := pal (s.lba.extractLsb' 4 4)
    let cc := pal ((n.extractLsb' 0 3).setWidth 4)
    let lo := pal ((s.lba.extractLsb' 0 3).setWidth 4)
    let r := s.cellSetup.cell
    s.cellSetup = { s with cell := r } ∧ r.cm = cm ∧ r.n = n ∧ r.mc = n.getLsbD 3 ∧ r.c1 = n.extractLsb' 0 3
      ∧ r.s3 = s.slot3 ∧ r.bm = s.cell.bm ∧ r.col = s.cell.col
      ∧ (n.getLsbD 3 = true → r.s0 = bg ∧ r.s1 = lo ∧ r.s2 = cc)
      ∧ (n.getLsbD 3 = false → s.inv = true → r.s0 = cc ∧ r.s1 = bg ∧ r.s2 = lo)
      ∧ (n.getLsbD 3 = false → s.inv = false → r.s0 = bg ∧ r.s1 = cc ∧ r.s2 = lo)

/-- 41_cell_setup.md section 3: with the latches as FRAME_SETUP leaves them, the cell operation that the key selects gives
the slots SLOT_ADJUST has computed. -/
def Obligations.CellOperationAgreesWithSlotAdjust : Prop :=
  ∀ s : State, s.inv = !s.lba.getLsbD 3 → cellOperation s.cellSetup = .next s.cellSetup

/-! ### Rows and cells -/

/-- 42_pixel_expansion.md R162: HR_ROW_EXPAND writes the row's eight pixels, most significant bit leftmost, and nothing
else: every raster byte outside the row and all other state but `col` is as it was. -/
def Obligations.HiResRowWritesEightPixels : Prop :=
  ∀ (x1 y1 y2 : Nat) (s : State), ∃ t, hrRowExpand x1 y1 y2 s = .next t
    ∧ t = { s with ras := t.ras, cell := { s.cell with col := t.cell.col } }
    ∧ (∀ x2, x2 < 8 → t.rasPixel (160 * (16 * y1 + y2) + (8 * x1 + x2))
        = if s.cell.bm.getLsbD (7 - x2) then s.cell.s1 else s.cell.s0)
    ∧ ∀ q, (∀ x2, x2 < 8 → q / 3 ≠ 160 * (16 * y1 + y2) + (8 * x1 + x2)) → t.ras.read? q = s.ras.read? q

/-- 42_pixel_expansion.md R165: MC_ROW_EXPAND writes four colours, each to two adjacent columns, and nothing else: every
raster byte outside the row and all other state but `col` is as it was. -/
def Obligations.MulticolorRowWritesFourDoubledPixels : Prop :=
  ∀ (x1 y1 y2 : Nat) (s : State), ∃ t, mcRowExpand x1 y1 y2 s = .next t
    ∧ t = { s with ras := t.ras, cell := { s.cell with col := t.cell.col } }
    ∧ (∀ j, j < 4 →
        let v := s.cell.bm.extractLsb' (6 - 2 * j) 2
        let col := if v = 0b00#2 then s.cell.s0 else if v = 0b01#2 then s.cell.s1
          else if v = 0b10#2 then s.cell.s2 else s.cell.s3
        t.rasPixel (160 * (16 * y1 + y2) + (8 * x1 + 2 * j)) = col
          ∧ t.rasPixel (160 * (16 * y1 + y2) + (8 * x1 + 2 * j + 1)) = col)
    ∧ ∀ q, (∀ x2, x2 < 8 → q / 3 ≠ 160 * (16 * y1 + y2) + (8 * x1 + x2)) → t.ras.read? q = s.ras.read? q

/-- 42_pixel_expansion.md sections 1 and 4: an enabled CELL_STEP always answers a next state; its cell's 128 pixels take
the closed form's colours, every other raster byte and all other state is as it was, the counter advances, and the last
cell completes the run. That no working register survives it is log 4. -/
def Obligations.CellStepDecodesOneCellAndNothingElse : Prop :=
  ∀ s : State, s.busy = true → s.c.toNat < 240 → s.inv = (!s.lba.getLsbD 3) → s.slot3 = pal (s.lbd.extractLsb' 4 4) →
    ∃ t, cellStep s = .next t
      ∧ (∀ x y, x < 160 → y < 192 → 20 * (y / 16) + x / 8 = s.c.toNat →
          t.rasPixel (160 * y + x) = dec s.payByte s.lba s.lbd x y)
      ∧ (∀ q, (∀ x y, x < 160 → y < 192 → 20 * (y / 16) + x / 8 = s.c.toNat → q / 3 ≠ 160 * y + x) →
          t.ras.read? q = s.ras.read? q)
      ∧ t = { s with ras := t.ras, cell := CellRegs.idle, c := s.c + 1#8,
                     busy := decide (s.c.toNat < 239),
                     done := if s.c.toNat = 239 then true else s.done,
                     rv := if s.c.toNat = 239 then true else s.rv }

/-- 42_pixel_expansion.md section 5, 41_cell_setup.md section 3: in a multicolor cell the inverse flag has no effect on the
pixels written, and neither has `LBA[3]`. -/
def Obligations.InverseHasNoEffectOnMulticolorCells : Prop :=
  ∀ (s : State) (a : Byte) (i : Bool),
    a.extractLsb' 4 4 = s.lba.extractLsb' 4 4 → a.extractLsb' 0 3 = s.lba.extractLsb' 0 3 →
    s.cellSetup.cell.mc = true →
    ∃ t t', cellStep s = .next t ∧ cellStep { s with lba := a, inv := i } = .next t' ∧ t.ras = t'.ras

/-- 41_cell_setup.md section 3: for the same bitmap byte the pixels of an inverse hi-res row are those of a normal one with
slots 0 and 1 exchanged, so the complemented byte gives the same row. -/
def Obligations.InverseSwapsTheColoursOfHiResRows : Prop :=
  ∀ (x1 y1 y2 : Nat) (s : State) (bm : Byte),
    ∃ t t',
      andThen (exec .cellHrNormal { s with cell := { s.cell with bm := bm } }) (hrRowExpand x1 y1 y2) = .next t
        ∧ andThen (exec .cellHrInverse { s with cell := { s.cell with bm := ~~~bm } }) (hrRowExpand x1 y1 y2) = .next t'
        ∧ ∀ p, t.rasPixel p = t'.rasPixel p

/-! ### Runs -/

/-- 42_pixel_expansion.md section 5: an accepted START followed by 240 engine steps ends complete, with every pixel the
closed form of the payload and the control bytes as they stood at START, and every raster byte written; `CMDERR`, `PAY`, `BA`
and `BD` are as they were. That the returned byte is as it was is the model's choice (log 9). -/
def Obligations.ARunDecodesTheInputsAtStart : Prop :=
  ∀ s : State, s.busy = false → s.wBA = true → s.wBD = true → (∀ o, o < 3960 → s.wPAY o = true) →
    ∃ t, andThen (exec .cmdStart s) (engineRun 240) = .next t
      ∧ (∀ x y, x < 160 → y < 192 → t.rasPixel (160 * y + x) = dec s.payByte s.ba s.bd x y)
      ∧ (∀ q, q < 92160 → (t.ras.read? q).isSome = true)
      ∧ t.busy = false ∧ t.done = true ∧ t.rv = true ∧ t.cmderr = s.cmderr
      ∧ t.pay = s.pay ∧ t.ba = s.ba ∧ t.bd = s.bd ∧ t.rdata = s.rdata

/-- 42_pixel_expansion.md section 5: the raster a run produces does not depend on the raster's earlier contents, nor on
anything but the payload and the latches. -/
def Obligations.TheRasterIsAFunctionOfTheInputs : Prop :=
  ∀ s s' : State, s.busy = true → s'.busy = true → s.c = 0#8 → s'.c = 0#8 →
    s.pay = s'.pay → s.lba = s'.lba → s.lbd = s'.lbd → s.inv = s'.inv → s.slot3 = s'.slot3 →
    s.ras.wf → s'.ras.wf → s.ras.below 92160 → s'.ras.below 92160 →
    ∃ t t', engineRun 240 s = .next t ∧ engineRun 240 s' = .next t' ∧ t.ras = t'.ras

/-- 20_memory.md section 5: writing `BA` or `BD` during a run changes nothing the engine does. -/
def Obligations.ControlWritesDoNotReachTheRunInProgress : Prop :=
  ∀ (k : Nat) (s : State) (a d : Byte),
    ∃ t, engineRun k s = .next t ∧ engineRun k { s with ba := a, bd := d } = .next { t with ba := a, bd := d }

/-- 70_reset_and_hazards.md section 4: with the host waiting, a run in progress ends after exactly its remaining cells,
with COMPLETE, and not before. The empty schedule lets the engine move whenever it can (log 1). -/
def Obligations.ARunEndsAfterItsRemainingCells : Prop :=
  ∀ s : State, s.sched = [] → s.busy = true → s.c.toNat < 240 →
    (∃ t : State, Host.Core.run core (240 - s.c.toNat) s = .next t
        ∧ t.busy = false ∧ t.done = true ∧ t.rv = true ∧ t.c = 240#8 ∧ t.host = s.host)
      ∧ ∀ k, k < 240 - s.c.toNat → ∃ u : State, Host.Core.run core k s = .next u ∧ u.busy = true ∧ u.host = s.host

/-! ### Rules about the whole machine -/

/-- 10_state.md R34: `BUSY` is set by an accepted START and cleared by COMPLETE and by reset; nothing else writes it. -/
def Obligations.BusyIsWrittenByStartCompleteAndResetAlone : Prop :=
  ∀ s t : State, step s = .next t →
    (s.acceptsStart → t.busy = true) ∧ (s.completes → t.busy = false) ∧ (s.nextTurn = .rst → t.busy = false)
      ∧ (¬ s.acceptsStart → ¬ s.completes → s.nextTurn ≠ .rst → t.busy = s.busy)

/-- 10_state.md R35: `DONE` is set by COMPLETE and cleared by an accepted START, by ACK and by reset, nothing else writes it,
and no step makes `BUSY` and `DONE` both 1. -/
def Obligations.DoneIsSetByCompleteAndClearedByStartAckAndReset : Prop :=
  ∀ s t : State, step s = .next t →
    (s.completes → t.done = true)
      ∧ (s.acceptsStart ∨ s.nextIs .cmdAck ∨ s.nextTurn = .rst → t.done = false)
      ∧ (¬ s.completes → ¬ s.acceptsStart → ¬ s.nextIs .cmdAck → s.nextTurn ≠ .rst → t.done = s.done)
      ∧ (¬ (s.busy = true ∧ s.done = true) → ¬ (t.busy = true ∧ t.done = true))

/-- 10_state.md R36: `RV` is set by COMPLETE and cleared by an accepted START and by reset, nothing else writes it (ACK does
not), and while it is 0 the raster window reads 0x00. -/
def Obligations.RvIsSetByCompleteAndClearedByStartAndReset : Prop :=
  ∀ s t : State, step s = .next t →
    (s.completes → t.rv = true) ∧ (s.acceptsStart ∨ s.nextTurn = .rst → t.rv = false)
      ∧ (¬ s.completes → ¬ s.acceptsStart → s.nextTurn ≠ .rst → t.rv = s.rv)
      ∧ (t.rv = false → ∀ a d, inRaster a = true → exec (.lbRas a d) t = .next { t with rdata := 0x00#8 })

/-- 10_state.md R37, 60_exceptions.md R241: `CMDERR` is set by each of the three rejections, which record and do nothing
else to the block (the host's program and the schedule, outside the block, are left to log 1); it is cleared by ACK and by reset, and stays as it is across every other step. -/
def Obligations.CmderrIsSetByRejectionsAndClearedByAckOrReset : Prop :=
  ∀ s t : State, step s = .next t →
    (s.rejects → t = { s with cmderr := true, host := t.host, sched := t.sched })
      ∧ (s.nextIs .cmdAck ∨ s.nextTurn = .rst → t.cmderr = false)
      ∧ (¬ s.rejects → ¬ s.nextIs .cmdAck → s.nextTurn ≠ .rst → t.cmderr = s.cmderr)

/-- 20_memory.md section 5, 10_state.md section 2: the payload changes only by an accepted SB_PAY or a reset, so never
during a run but by a reset; the raster only by the engine in a run or by a reset. That a reset empties both lists is the
model's reading of "unspecified" (log 5, log 6). -/
def Obligations.StorageChangesOnlyByItsOwner : Prop :=
  ∀ s t : State, step s = .next t → s.nextTurn ≠ .rst →
    (t.pay ≠ s.pay → s.nextTurn = .host ∧ s.busy = false ∧ ∃ w rest a d, s.host = .txn w :: rest
        ∧ decode (.hbus w) = .sbPay a d ∧ t.pay = s.pay.write a.toNat d)
      ∧ (t.ras ≠ s.ras → s.nextTurn = .engine ∧ s.busy = true)
      ∧ (s.busy = true → t.busy = true → t.lba = s.lba ∧ t.lbd = s.lbd ∧ t.inv = s.inv ∧ t.slot3 = s.slot3)

/-- 60_exceptions.md R240, R246: a step is never refused, and it faults only where CMD_START would be accepted with an
unwritten input, or where LB_PAY, LB_BA or LB_BD reads an unwritten byte. The engine never faults. -/
def Obligations.StepsStopOnlyAtTheTwoModelFaults : Prop :=
  ∀ s : State, (∀ r, step s ≠ .refused r)
    ∧ ∀ e, step s = .fault e → s.nextTurn = .host ∧ ∃ i : Instr,
        ((∃ w rest, s.host = .txn w :: rest ∧ i = decode (.hbus w))
            ∨ ∃ a m v rest, s.host = .poll a m v :: rest ∧ i = decode (.hbus (hbusWord 0#1 a 0x00#8)))
          ∧ ((e = .unwrittenInput ∧ i = .cmdStart ∧ s.busy = false
                ∧ (s.wBA = false ∨ s.wBD = false ∨ ∃ o, o < 3960 ∧ s.wPAY o = false))
              ∨ (e = .unwrittenRead ∧ ((∃ a d, i = .lbPay a d ∧ s.wPAY a.toNat = false)
                  ∨ (∃ d, i = .lbBa d ∧ s.wBA = false) ∨ ∃ d, i = .lbBd d ∧ s.wBD = false)))

/-- 70_reset_and_hazards.md R270 to R272: a reset cycle clears the status, the written-marks and `done_o`, in a run too,
and the raster is not readable after it. -/
def Obligations.ResetClearsStatusAndWrittenMarks : Prop :=
  ∀ s : State, s.nextTurn = .rst → ∃ t, step s = .next t
    ∧ t.busy = false ∧ t.done = false ∧ t.rv = false ∧ t.cmderr = false ∧ t.status = 0x00#8 ∧ t.doneO = false
    ∧ t.wBA = false ∧ t.wBD = false ∧ (∀ o, t.wPAY o = false)
    ∧ ∀ a d, inRaster a = true → exec (.lbRas a d) t = .next { t with rdata := 0x00#8 }

/-- 70_reset_and_hazards.md R271: the specified part of the state after reset. -/
def Obligations.TheResetStateIsIdleAndUnwritten : Prop :=
  State.reset.status = 0x00#8 ∧ State.reset.doneO = false ∧ State.reset.wBA = false ∧ State.reset.wBD = false
    ∧ ∀ o, State.reset.wPAY o = false

/-- Every step keeps the invariant: memories canonical and inside their spaces, `BUSY` and `DONE` never both 1, the latches
of a run as FRAME_SETUP left them, its inputs written, the cells before `c` in the raster, a valid raster complete. -/
def Obligations.EveryStepKeepsTheInvariant : Prop :=
  ∀ s t : State, s.Inv → step s = .next t → t.Inv

/-- The invariant holds after reset. -/
def Obligations.ResetHasTheInvariant : Prop := State.reset.Inv

/-- 43_host_interface.md R205: in a state that has the invariant, a raster read with `RV = 1` returns a byte the engine
wrote, never a value left open. -/
def Obligations.AValidRasterReadReturnsAWrittenByte : Prop :=
  ∀ (s : State) (a : HostAddr) (d : Byte), s.Inv → s.rv = true → inRaster a = true →
    ∃ b, s.ras.read? (a.toNat - 0x20000) = some b ∧ exec (.lbRas a d) s = .next { s with rdata := b }

/-! ### Layouts and the host program language -/

/-- 20_memory.md section 3: every bitmap offset belongs to exactly one scanline of one cell, and every colour-map offset
of the region to some cell; two cells share one exactly when they are a pair of one cell row. -/
def Obligations.PayloadOffsetsCoverTheirRegionsOnce : Prop :=
  (∀ o, o < 3840 → ∃! t : Nat × Nat × Nat, t.1 < 20 ∧ t.2.1 < 12 ∧ t.2.2 < 16 ∧ bmOff t.1 t.2.1 t.2.2 = o)
    ∧ (∀ x1 y1, x1 < 20 → y1 < 12 → 3840 ≤ cmOff x1 y1 ∧ cmOff x1 y1 < 3960)
    ∧ (∀ o, 3840 ≤ o → o < 3960 → ∃ x1 y1, x1 < 20 ∧ y1 < 12 ∧ cmOff x1 y1 = o)
    ∧ ∀ x1 y1 x1' y1', x1 < 20 → y1 < 12 → x1' < 20 → y1' < 12 →
        (cmOff x1 y1 = cmOff x1' y1' ↔ y1 = y1' ∧ x1 / 2 = x1' / 2)

/-- 30_encoding.md section 6: `fill` expands to one payload write per byte, ascending, and is refused when `o+n-1` is past the
payload, with `n = 0` too. -/
def Obligations.FillExpandsToAscendingPayloadWrites : Prop :=
  ∀ o n v : Nat, v ≤ 255 →
    (o + n ≤ 3960 → (AsmLine.fill o n v).expand
        = some ((List.range n).map fun j => .txn (hbusWord 1#1 (BitVec.ofNat 20 (o + j)) (BitVec.ofNat 8 v))))
      ∧ (3960 < o + n → (AsmLine.fill o n v).expand = none)

/-- 20_memory.md R62 with 30_encoding.md R108: `load F` writes `BD` from file byte 15, `BA` from byte 16, and payload
offset `o` from byte `17 + o`, and no other byte of the file is loaded. -/
def Obligations.LoadWritesTheControlBytesAndThePayload : Prop :=
  ∀ f : List Byte, f.length = 4097 → ∃ ls, (AsmLine.load f).expand = some ls ∧ ls.length = 3962
    ∧ ls[0]? = some (.txn (hbusWord 1#1 0x01003#20 (f.getD 15 0#8)))
    ∧ ls[1]? = some (.txn (hbusWord 1#1 0x01002#20 (f.getD 16 0#8)))
    ∧ ∀ o, o < 3960 → ls[2 + o]? = some (.txn (hbusWord 1#1 (BitVec.ofNat 20 o) (f.getD (17 + o) 0#8)))
end

