-- ==== Sys2Proof/Laws/Decode.lean ====
section
/-! SUPPORT. The fields of a transaction word, the address ranges, and how a mask reads. -/

namespace Sys2Proof

@[simp] theorem hbusD_hbusWord (w : BitVec 1) (a : HostAddr) (d : Byte) : hbusD (hbusWord w a d) = d := by
  apply BitVec.eq_of_getLsbD_eq
  intro i hi
  simp only [hbusD, hbusWord, BitVec.getLsbD_extractLsb', BitVec.getLsbD_append]
  simp [hi]

@[simp] theorem hbusA_hbusWord (w : BitVec 1) (a : HostAddr) (d : Byte) : hbusA (hbusWord w a d) = a := by
  apply BitVec.eq_of_getLsbD_eq
  intro i hi
  simp only [hbusA, hbusWord, BitVec.getLsbD_extractLsb', BitVec.getLsbD_append]
  simp [hi]

@[simp] theorem hbusW_hbusWord (w : BitVec 1) (a : HostAddr) (d : Byte) : hbusW (hbusWord w a d) = w := by
  apply BitVec.eq_of_getLsbD_eq
  intro i hi
  simp only [hbusW, hbusWord, BitVec.getLsbD_extractLsb', BitVec.getLsbD_append]
  simp [show i = 0 by omega]

/-- A word is its three fields. -/
@[simp] theorem hbusWord_fields (w : HbusWord) : hbusWord (hbusW w) (hbusA w) (hbusD w) = w := by
  apply BitVec.eq_of_getLsbD_eq
  intro i hi
  simp only [hbusA, hbusD, hbusW, hbusWord, BitVec.getLsbD_extractLsb', BitVec.getLsbD_append]
  by_cases h8 : i < 8
  · simp [h8]
  · by_cases h28 : i - 8 < 20
    · simp [h8, h28, show 8 + (i - 8) = i by omega]
    · simp [h8, h28, show i - 8 - 20 < 1 by omega, show 28 + (i - 8 - 20) = i by omega]

/-- `W` is 0 or 1. -/
theorem bit_cases (b : BitVec 1) : b = 0#1 ∨ b = 1#1 := by
  revert b
  decide

/-- A transaction word as a number (30_encoding.md R101). -/
theorem hbusWord_toNat (w : BitVec 1) (a : HostAddr) (d : Byte) :
    (hbusWord w a d).toNat = w.toNat * 2 ^ 28 + a.toNat * 2 ^ 8 + d.toNat := by
  simp only [hbusWord, BitVec.toNat_append]
  rw [← Nat.shiftLeft_add_eq_or_of_lt a.isLt, ← Nat.shiftLeft_add_eq_or_of_lt d.isLt]
  simp only [Nat.shiftLeft_eq]
  omega

/-! ### The address map (20_memory.md R61) -/

theorem inPayload_iff (a : HostAddr) : inPayload a = true ↔ a.toNat ≤ 0xF77 := by simp [inPayload]

theorem inRaster_iff (a : HostAddr) : inRaster a = true ↔ 0x20000 ≤ a.toNat ∧ a.toNat ≤ 0x367FF := by simp [inRaster]

theorem inReserved_iff (a : HostAddr) :
    inReserved a = true ↔ (0xF78 ≤ a.toNat ∧ a.toNat ≤ 0xFFF) ∨ (0x1004 ≤ a.toNat ∧ a.toNat ≤ 0x1FFFF)
      ∨ 0x36800 ≤ a.toNat := by
  simp [inReserved, or_assoc]

/-- An address in no range is one of the four registers. -/
theorem register_of_no_range (a : HostAddr) (h : inPayload a = false) (h' : inReserved a = false) (h'' : inRaster a = false) :
    a = 0x01000#20 ∨ a = 0x01001#20 ∨ a = 0x01002#20 ∨ a = 0x01003#20 := by
  have h1 := mt (inPayload_iff a).mpr (by simp [h])
  have h2 := mt (inReserved_iff a).mpr (by simp [h'])
  have h3 := mt (inRaster_iff a).mpr (by simp [h''])
  have : a.toNat = 0x1000 ∨ a.toNat = 0x1001 ∨ a.toNat = 0x1002 ∨ a.toNat = 0x1003 := by omega
  rcases this with e | e | e | e
  · exact .inl (BitVec.eq_of_toNat_eq e)
  · exact .inr (.inl (BitVec.eq_of_toNat_eq e))
  · exact .inr (.inr (.inl (BitVec.eq_of_toNat_eq e)))
  · exact .inr (.inr (.inr (BitVec.eq_of_toNat_eq e)))

theorem reserved_not_payload {a : HostAddr} (h : inReserved a = true) : inPayload a = false := by
  rw [inReserved_iff] at h
  simp only [inPayload, decide_eq_false_iff_not]
  omega

theorem raster_not_payload {a : HostAddr} (h : inRaster a = true) : inPayload a = false := by
  rw [inRaster_iff] at h
  simp only [inPayload, decide_eq_false_iff_not]
  omega

theorem raster_not_reserved {a : HostAddr} (h : inRaster a = true) : inReserved a = false := by
  rw [inRaster_iff] at h
  by_contra hc
  have := (inReserved_iff a).mp (by simpa using hc)
  omega

/-- A code that is none of the three commands is reserved (30_encoding.md R104 a). -/
theorem isReservedCode_of_ne {d : Byte} (h0 : d ≠ 0x00#8) (h1 : d ≠ 0x01#8) (h2 : d ≠ 0x02#8) : isReservedCode d = true := by
  have n0 : d.toNat ≠ 0 := fun h => h0 (BitVec.eq_of_toNat_eq h)
  have n1 : d.toNat ≠ 1 := fun h => h1 (BitVec.eq_of_toNat_eq h)
  have n2 : d.toNat ≠ 2 := fun h => h2 (BitVec.eq_of_toNat_eq h)
  simp only [isReservedCode, decide_eq_true_eq]
  omega

theorem reserved_ne {d : Byte} (h : isReservedCode d = true) : d ≠ 0x00#8 ∧ d ≠ 0x01#8 ∧ d ≠ 0x02#8 := by
  simp only [isReservedCode, decide_eq_true_eq] at h
  refine ⟨?_, ?_, ?_⟩ <;> rintro rfl <;> simp at h

/-! ### What each decoder can answer -/

/-- A command is one of four. -/
theorem decodeCommand_cases (d : Byte) :
    (d = 0x00#8 ∧ decodeCommand d = .cmdNop) ∨ (d = 0x01#8 ∧ decodeCommand d = .cmdStart)
      ∨ (d = 0x02#8 ∧ decodeCommand d = .cmdAck) ∨ (isReservedCode d = true ∧ decodeCommand d = .cmdRsv d) := by
  unfold decodeCommand
  by_cases h0 : d = 0x00#8
  · simp [h0]
  · by_cases h1 : d = 0x01#8
    · simp [h1]
    · by_cases h2 : d = 0x02#8
      · simp [h2]
      · rw [if_neg h0, if_neg h1, if_neg h2]
        exact .inr (.inr (.inr ⟨isReservedCode_of_ne h0 h1 h2, rfl⟩))

/-- A host write is a payload, reserved or raster write, a command, or a register write. -/
theorem decodeWrite_cases (a : HostAddr) (d : Byte) :
    (inPayload a = true ∧ decodeWrite a d = .sbPay a d) ∨ (inReserved a = true ∧ decodeWrite a d = .sbRsv a d)
      ∨ (inRaster a = true ∧ decodeWrite a d = .sbRas a d) ∨ (a = 0x01000#20 ∧ decodeWrite a d = decodeCommand d)
      ∨ (a = 0x01001#20 ∧ decodeWrite a d = .sbStatus d) ∨ (a = 0x01002#20 ∧ decodeWrite a d = .sbBa d)
      ∨ (a = 0x01003#20 ∧ decodeWrite a d = .sbBd d) := by
  by_cases hp : inPayload a = true
  · simp [decodeWrite, hp]
  · by_cases hv : inReserved a = true
    · simp [decodeWrite, hp, hv]
    · by_cases hr : inRaster a = true
      · simp [decodeWrite, hp, hv, hr]
      · rcases register_of_no_range a (by simpa using hp) (by simpa using hv) (by simpa using hr) with rfl | rfl | rfl | rfl
        · exact .inr (.inr (.inr (.inl ⟨rfl, rfl⟩)))
        · exact .inr (.inr (.inr (.inr (.inl ⟨rfl, rfl⟩))))
        · exact .inr (.inr (.inr (.inr (.inr (.inl ⟨rfl, rfl⟩)))))
        · exact .inr (.inr (.inr (.inr (.inr (.inr ⟨rfl, rfl⟩)))))

/-- A host read is a payload, reserved or raster read, or a register read. -/
theorem decodeRead_cases (a : HostAddr) (d : Byte) :
    (inPayload a = true ∧ decodeRead a d = .lbPay a d) ∨ (inReserved a = true ∧ decodeRead a d = .lbRsv a d)
      ∨ (inRaster a = true ∧ decodeRead a d = .lbRas a d) ∨ (a = 0x01000#20 ∧ decodeRead a d = .lbCmd d)
      ∨ (a = 0x01001#20 ∧ decodeRead a d = .lbStatus d) ∨ (a = 0x01002#20 ∧ decodeRead a d = .lbBa d)
      ∨ (a = 0x01003#20 ∧ decodeRead a d = .lbBd d) := by
  by_cases hp : inPayload a = true
  · simp [decodeRead, hp]
  · by_cases hv : inReserved a = true
    · simp [decodeRead, hp, hv]
    · by_cases hr : inRaster a = true
      · simp [decodeRead, hp, hv, hr]
      · rcases register_of_no_range a (by simpa using hp) (by simpa using hv) (by simpa using hr) with rfl | rfl | rfl | rfl
        · exact .inr (.inr (.inr (.inl ⟨rfl, rfl⟩)))
        · exact .inr (.inr (.inr (.inr (.inl ⟨rfl, rfl⟩))))
        · exact .inr (.inr (.inr (.inr (.inr (.inl ⟨rfl, rfl⟩)))))
        · exact .inr (.inr (.inr (.inr (.inr (.inr ⟨rfl, rfl⟩)))))

/-- A transaction is decoded by its `W` bit. -/
theorem decodeHbus_cases (w : HbusWord) :
    (hbusW w = 1#1 ∧ decodeHbus w = decodeWrite (hbusA w) (hbusD w))
      ∨ (hbusW w = 0#1 ∧ decodeHbus w = decodeRead (hbusA w) (hbusD w)) := by
  rcases bit_cases (hbusW w) with h | h <;> simp [decodeHbus, h]

@[simp] theorem decodeHbus_write (a : HostAddr) (d : Byte) : decodeHbus (hbusWord 1#1 a d) = decodeWrite a d := by
  simp [decodeHbus]

@[simp] theorem decodeHbus_read (a : HostAddr) (d : Byte) : decodeHbus (hbusWord 0#1 a d) = decodeRead a d := by
  simp [decodeHbus]

/-! ### Masks -/

/-- Bit `i` of a word in terms of its fields. -/
theorem getLsbD_fields (w : HbusWord) (i : Nat) (hi : i < 29) :
    w.getLsbD i = if i < 8 then (hbusD w).getLsbD i else if i < 28 then (hbusA w).getLsbD (i - 8) else (hbusW w).getLsbD 0 := by
  simp only [hbusA, hbusD, hbusW, BitVec.getLsbD_extractLsb']
  split
  · simp [*]
  · split
    · simp [show i - 8 < 20 by omega, show 8 + (i - 8) = i by omega]
    · simp [show i = 28 by omega]

/-- A mask of all bits from `k` up compares the number above bit `k`. -/
theorem and_highMask_eq_iff (n k : Nat) (w c : BitVec n) (hc : c.toNat % 2 ^ k = 0) :
    w &&& (BitVec.allOnes n <<< k) = c ↔ w.toNat / 2 ^ k = c.toNat / 2 ^ k := by
  constructor
  · intro h
    have := congrArg (fun v : BitVec n => (v >>> k).toNat) h
    simp only [BitVec.toNat_ushiftRight, Nat.shiftRight_eq_div_pow] at this
    rw [← this]
    have e : ((w &&& BitVec.allOnes n <<< k) >>> k) = w >>> k := by
      apply BitVec.eq_of_getLsbD_eq
      intro i hi
      simp only [BitVec.getLsbD_ushiftRight, BitVec.getLsbD_and, BitVec.getLsbD_shiftLeft, BitVec.getLsbD_allOnes]
      by_cases hn : k + i < n
      · simp [hn, show ¬ k + i < k by omega, hi]
      · simp [BitVec.getLsbD_of_ge w (k + i) (by omega)]
    have := congrArg BitVec.toNat e
    simpa [BitVec.toNat_ushiftRight, Nat.shiftRight_eq_div_pow] using this.symm
  · intro h
    apply BitVec.eq_of_getLsbD_eq
    intro i hi
    simp only [BitVec.getLsbD_and, BitVec.getLsbD_shiftLeft, BitVec.getLsbD_allOnes]
    by_cases hk : i < k
    · have : c.getLsbD i = false := by
        have e := Nat.testBit_mod_two_pow c.toNat k i
        rw [hc] at e
        simpa [hk, BitVec.getLsbD] using e.symm
      simp [hk, this]
    · have e : (w.toNat / 2 ^ k).testBit (i - k) = (c.toNat / 2 ^ k).testBit (i - k) := by rw [h]
      simp only [Nat.testBit_div_two_pow] at e
      rw [show i - k + k = i by omega] at e
      simp only [BitVec.getLsbD, e]
      simp [hk, hi, show i - k < n by omega]

end Sys2Proof
end

