-- ==== Sys2Proof/Laws/State.lean ====
section
/-! SUPPORT. One lemma per field per update of State, true by rfl. -/

namespace Sys2Proof.Machine

/-! ### payStore -/

@[simp] theorem State.payStore_pay (s : State) (o : Nat) (v : Byte) : (s.payStore o v).pay = s.pay.write o v := rfl
@[simp] theorem State.payStore_ras (s : State) (o : Nat) (v : Byte) : (s.payStore o v).ras = s.ras := rfl
@[simp] theorem State.payStore_ba (s : State) (o : Nat) (v : Byte) : (s.payStore o v).ba = s.ba := rfl
@[simp] theorem State.payStore_bd (s : State) (o : Nat) (v : Byte) : (s.payStore o v).bd = s.bd := rfl
@[simp] theorem State.payStore_wBA (s : State) (o : Nat) (v : Byte) : (s.payStore o v).wBA = s.wBA := rfl
@[simp] theorem State.payStore_wBD (s : State) (o : Nat) (v : Byte) : (s.payStore o v).wBD = s.wBD := rfl
@[simp] theorem State.payStore_busy (s : State) (o : Nat) (v : Byte) : (s.payStore o v).busy = s.busy := rfl
@[simp] theorem State.payStore_done (s : State) (o : Nat) (v : Byte) : (s.payStore o v).done = s.done := rfl
@[simp] theorem State.payStore_rv (s : State) (o : Nat) (v : Byte) : (s.payStore o v).rv = s.rv := rfl
@[simp] theorem State.payStore_cmderr (s : State) (o : Nat) (v : Byte) : (s.payStore o v).cmderr = s.cmderr := rfl
@[simp] theorem State.payStore_c (s : State) (o : Nat) (v : Byte) : (s.payStore o v).c = s.c := rfl
@[simp] theorem State.payStore_lba (s : State) (o : Nat) (v : Byte) : (s.payStore o v).lba = s.lba := rfl
@[simp] theorem State.payStore_lbd (s : State) (o : Nat) (v : Byte) : (s.payStore o v).lbd = s.lbd := rfl
@[simp] theorem State.payStore_inv (s : State) (o : Nat) (v : Byte) : (s.payStore o v).inv = s.inv := rfl
@[simp] theorem State.payStore_slot3 (s : State) (o : Nat) (v : Byte) : (s.payStore o v).slot3 = s.slot3 := rfl
@[simp] theorem State.payStore_cell (s : State) (o : Nat) (v : Byte) : (s.payStore o v).cell = s.cell := rfl
@[simp] theorem State.payStore_rdata (s : State) (o : Nat) (v : Byte) : (s.payStore o v).rdata = s.rdata := rfl
@[simp] theorem State.payStore_host (s : State) (o : Nat) (v : Byte) : (s.payStore o v).host = s.host := rfl
@[simp] theorem State.payStore_sched (s : State) (o : Nat) (v : Byte) : (s.payStore o v).sched = s.sched := rfl

/-! ### rasStore -/

@[simp] theorem State.rasStore_pay (s : State) (p : Nat) (v : Rgb) : (s.rasStore p v).pay = s.pay := rfl
@[simp] theorem State.rasStore_ras (s : State) (p : Nat) (v : Rgb) : (s.rasStore p v).ras = storePixel s.ras p v := rfl
@[simp] theorem State.rasStore_ba (s : State) (p : Nat) (v : Rgb) : (s.rasStore p v).ba = s.ba := rfl
@[simp] theorem State.rasStore_bd (s : State) (p : Nat) (v : Rgb) : (s.rasStore p v).bd = s.bd := rfl
@[simp] theorem State.rasStore_wBA (s : State) (p : Nat) (v : Rgb) : (s.rasStore p v).wBA = s.wBA := rfl
@[simp] theorem State.rasStore_wBD (s : State) (p : Nat) (v : Rgb) : (s.rasStore p v).wBD = s.wBD := rfl
@[simp] theorem State.rasStore_busy (s : State) (p : Nat) (v : Rgb) : (s.rasStore p v).busy = s.busy := rfl
@[simp] theorem State.rasStore_done (s : State) (p : Nat) (v : Rgb) : (s.rasStore p v).done = s.done := rfl
@[simp] theorem State.rasStore_rv (s : State) (p : Nat) (v : Rgb) : (s.rasStore p v).rv = s.rv := rfl
@[simp] theorem State.rasStore_cmderr (s : State) (p : Nat) (v : Rgb) : (s.rasStore p v).cmderr = s.cmderr := rfl
@[simp] theorem State.rasStore_c (s : State) (p : Nat) (v : Rgb) : (s.rasStore p v).c = s.c := rfl
@[simp] theorem State.rasStore_lba (s : State) (p : Nat) (v : Rgb) : (s.rasStore p v).lba = s.lba := rfl
@[simp] theorem State.rasStore_lbd (s : State) (p : Nat) (v : Rgb) : (s.rasStore p v).lbd = s.lbd := rfl
@[simp] theorem State.rasStore_inv (s : State) (p : Nat) (v : Rgb) : (s.rasStore p v).inv = s.inv := rfl
@[simp] theorem State.rasStore_slot3 (s : State) (p : Nat) (v : Rgb) : (s.rasStore p v).slot3 = s.slot3 := rfl
@[simp] theorem State.rasStore_cell (s : State) (p : Nat) (v : Rgb) : (s.rasStore p v).cell = s.cell := rfl
@[simp] theorem State.rasStore_rdata (s : State) (p : Nat) (v : Rgb) : (s.rasStore p v).rdata = s.rdata := rfl
@[simp] theorem State.rasStore_host (s : State) (p : Nat) (v : Rgb) : (s.rasStore p v).host = s.host := rfl
@[simp] theorem State.rasStore_sched (s : State) (p : Nat) (v : Rgb) : (s.rasStore p v).sched = s.sched := rfl

/-! ### pixelWrite -/

@[simp] theorem State.pixelWrite_pay (s : State) (x y : Nat) (v : Rgb) : (s.pixelWrite x y v).pay = s.pay := rfl
@[simp] theorem State.pixelWrite_ras (s : State) (x y : Nat) (v : Rgb) : (s.pixelWrite x y v).ras = storePixel s.ras (pixelIndex x y) v := rfl
@[simp] theorem State.pixelWrite_ba (s : State) (x y : Nat) (v : Rgb) : (s.pixelWrite x y v).ba = s.ba := rfl
@[simp] theorem State.pixelWrite_bd (s : State) (x y : Nat) (v : Rgb) : (s.pixelWrite x y v).bd = s.bd := rfl
@[simp] theorem State.pixelWrite_wBA (s : State) (x y : Nat) (v : Rgb) : (s.pixelWrite x y v).wBA = s.wBA := rfl
@[simp] theorem State.pixelWrite_wBD (s : State) (x y : Nat) (v : Rgb) : (s.pixelWrite x y v).wBD = s.wBD := rfl
@[simp] theorem State.pixelWrite_busy (s : State) (x y : Nat) (v : Rgb) : (s.pixelWrite x y v).busy = s.busy := rfl
@[simp] theorem State.pixelWrite_done (s : State) (x y : Nat) (v : Rgb) : (s.pixelWrite x y v).done = s.done := rfl
@[simp] theorem State.pixelWrite_rv (s : State) (x y : Nat) (v : Rgb) : (s.pixelWrite x y v).rv = s.rv := rfl
@[simp] theorem State.pixelWrite_cmderr (s : State) (x y : Nat) (v : Rgb) : (s.pixelWrite x y v).cmderr = s.cmderr := rfl
@[simp] theorem State.pixelWrite_c (s : State) (x y : Nat) (v : Rgb) : (s.pixelWrite x y v).c = s.c := rfl
@[simp] theorem State.pixelWrite_lba (s : State) (x y : Nat) (v : Rgb) : (s.pixelWrite x y v).lba = s.lba := rfl
@[simp] theorem State.pixelWrite_lbd (s : State) (x y : Nat) (v : Rgb) : (s.pixelWrite x y v).lbd = s.lbd := rfl
@[simp] theorem State.pixelWrite_inv (s : State) (x y : Nat) (v : Rgb) : (s.pixelWrite x y v).inv = s.inv := rfl
@[simp] theorem State.pixelWrite_slot3 (s : State) (x y : Nat) (v : Rgb) : (s.pixelWrite x y v).slot3 = s.slot3 := rfl
@[simp] theorem State.pixelWrite_cell (s : State) (x y : Nat) (v : Rgb) : (s.pixelWrite x y v).cell = s.cell := rfl
@[simp] theorem State.pixelWrite_rdata (s : State) (x y : Nat) (v : Rgb) : (s.pixelWrite x y v).rdata = s.rdata := rfl
@[simp] theorem State.pixelWrite_host (s : State) (x y : Nat) (v : Rgb) : (s.pixelWrite x y v).host = s.host := rfl
@[simp] theorem State.pixelWrite_sched (s : State) (x y : Nat) (v : Rgb) : (s.pixelWrite x y v).sched = s.sched := rfl

/-! ### setBa -/

@[simp] theorem State.setBa_pay (s : State) (d : Byte) : (s.setBa d).pay = s.pay := rfl
@[simp] theorem State.setBa_ras (s : State) (d : Byte) : (s.setBa d).ras = s.ras := rfl
@[simp] theorem State.setBa_ba (s : State) (d : Byte) : (s.setBa d).ba = d := rfl
@[simp] theorem State.setBa_bd (s : State) (d : Byte) : (s.setBa d).bd = s.bd := rfl
@[simp] theorem State.setBa_wBA (s : State) (d : Byte) : (s.setBa d).wBA = true := rfl
@[simp] theorem State.setBa_wBD (s : State) (d : Byte) : (s.setBa d).wBD = s.wBD := rfl
@[simp] theorem State.setBa_busy (s : State) (d : Byte) : (s.setBa d).busy = s.busy := rfl
@[simp] theorem State.setBa_done (s : State) (d : Byte) : (s.setBa d).done = s.done := rfl
@[simp] theorem State.setBa_rv (s : State) (d : Byte) : (s.setBa d).rv = s.rv := rfl
@[simp] theorem State.setBa_cmderr (s : State) (d : Byte) : (s.setBa d).cmderr = s.cmderr := rfl
@[simp] theorem State.setBa_c (s : State) (d : Byte) : (s.setBa d).c = s.c := rfl
@[simp] theorem State.setBa_lba (s : State) (d : Byte) : (s.setBa d).lba = s.lba := rfl
@[simp] theorem State.setBa_lbd (s : State) (d : Byte) : (s.setBa d).lbd = s.lbd := rfl
@[simp] theorem State.setBa_inv (s : State) (d : Byte) : (s.setBa d).inv = s.inv := rfl
@[simp] theorem State.setBa_slot3 (s : State) (d : Byte) : (s.setBa d).slot3 = s.slot3 := rfl
@[simp] theorem State.setBa_cell (s : State) (d : Byte) : (s.setBa d).cell = s.cell := rfl
@[simp] theorem State.setBa_rdata (s : State) (d : Byte) : (s.setBa d).rdata = s.rdata := rfl
@[simp] theorem State.setBa_host (s : State) (d : Byte) : (s.setBa d).host = s.host := rfl
@[simp] theorem State.setBa_sched (s : State) (d : Byte) : (s.setBa d).sched = s.sched := rfl

/-! ### setBd -/

@[simp] theorem State.setBd_pay (s : State) (d : Byte) : (s.setBd d).pay = s.pay := rfl
@[simp] theorem State.setBd_ras (s : State) (d : Byte) : (s.setBd d).ras = s.ras := rfl
@[simp] theorem State.setBd_ba (s : State) (d : Byte) : (s.setBd d).ba = s.ba := rfl
@[simp] theorem State.setBd_bd (s : State) (d : Byte) : (s.setBd d).bd = d := rfl
@[simp] theorem State.setBd_wBA (s : State) (d : Byte) : (s.setBd d).wBA = s.wBA := rfl
@[simp] theorem State.setBd_wBD (s : State) (d : Byte) : (s.setBd d).wBD = true := rfl
@[simp] theorem State.setBd_busy (s : State) (d : Byte) : (s.setBd d).busy = s.busy := rfl
@[simp] theorem State.setBd_done (s : State) (d : Byte) : (s.setBd d).done = s.done := rfl
@[simp] theorem State.setBd_rv (s : State) (d : Byte) : (s.setBd d).rv = s.rv := rfl
@[simp] theorem State.setBd_cmderr (s : State) (d : Byte) : (s.setBd d).cmderr = s.cmderr := rfl
@[simp] theorem State.setBd_c (s : State) (d : Byte) : (s.setBd d).c = s.c := rfl
@[simp] theorem State.setBd_lba (s : State) (d : Byte) : (s.setBd d).lba = s.lba := rfl
@[simp] theorem State.setBd_lbd (s : State) (d : Byte) : (s.setBd d).lbd = s.lbd := rfl
@[simp] theorem State.setBd_inv (s : State) (d : Byte) : (s.setBd d).inv = s.inv := rfl
@[simp] theorem State.setBd_slot3 (s : State) (d : Byte) : (s.setBd d).slot3 = s.slot3 := rfl
@[simp] theorem State.setBd_cell (s : State) (d : Byte) : (s.setBd d).cell = s.cell := rfl
@[simp] theorem State.setBd_rdata (s : State) (d : Byte) : (s.setBd d).rdata = s.rdata := rfl
@[simp] theorem State.setBd_host (s : State) (d : Byte) : (s.setBd d).host = s.host := rfl
@[simp] theorem State.setBd_sched (s : State) (d : Byte) : (s.setBd d).sched = s.sched := rfl

/-! ### setRdata -/

@[simp] theorem State.setRdata_pay (s : State) (b : Byte) : (s.setRdata b).pay = s.pay := rfl
@[simp] theorem State.setRdata_ras (s : State) (b : Byte) : (s.setRdata b).ras = s.ras := rfl
@[simp] theorem State.setRdata_ba (s : State) (b : Byte) : (s.setRdata b).ba = s.ba := rfl
@[simp] theorem State.setRdata_bd (s : State) (b : Byte) : (s.setRdata b).bd = s.bd := rfl
@[simp] theorem State.setRdata_wBA (s : State) (b : Byte) : (s.setRdata b).wBA = s.wBA := rfl
@[simp] theorem State.setRdata_wBD (s : State) (b : Byte) : (s.setRdata b).wBD = s.wBD := rfl
@[simp] theorem State.setRdata_busy (s : State) (b : Byte) : (s.setRdata b).busy = s.busy := rfl
@[simp] theorem State.setRdata_done (s : State) (b : Byte) : (s.setRdata b).done = s.done := rfl
@[simp] theorem State.setRdata_rv (s : State) (b : Byte) : (s.setRdata b).rv = s.rv := rfl
@[simp] theorem State.setRdata_cmderr (s : State) (b : Byte) : (s.setRdata b).cmderr = s.cmderr := rfl
@[simp] theorem State.setRdata_c (s : State) (b : Byte) : (s.setRdata b).c = s.c := rfl
@[simp] theorem State.setRdata_lba (s : State) (b : Byte) : (s.setRdata b).lba = s.lba := rfl
@[simp] theorem State.setRdata_lbd (s : State) (b : Byte) : (s.setRdata b).lbd = s.lbd := rfl
@[simp] theorem State.setRdata_inv (s : State) (b : Byte) : (s.setRdata b).inv = s.inv := rfl
@[simp] theorem State.setRdata_slot3 (s : State) (b : Byte) : (s.setRdata b).slot3 = s.slot3 := rfl
@[simp] theorem State.setRdata_cell (s : State) (b : Byte) : (s.setRdata b).cell = s.cell := rfl
@[simp] theorem State.setRdata_rdata (s : State) (b : Byte) : (s.setRdata b).rdata = b := rfl
@[simp] theorem State.setRdata_host (s : State) (b : Byte) : (s.setRdata b).host = s.host := rfl
@[simp] theorem State.setRdata_sched (s : State) (b : Byte) : (s.setRdata b).sched = s.sched := rfl

/-! ### setCell -/

@[simp] theorem State.setCell_pay (s : State) (r : CellRegs) : (s.setCell r).pay = s.pay := rfl
@[simp] theorem State.setCell_ras (s : State) (r : CellRegs) : (s.setCell r).ras = s.ras := rfl
@[simp] theorem State.setCell_ba (s : State) (r : CellRegs) : (s.setCell r).ba = s.ba := rfl
@[simp] theorem State.setCell_bd (s : State) (r : CellRegs) : (s.setCell r).bd = s.bd := rfl
@[simp] theorem State.setCell_wBA (s : State) (r : CellRegs) : (s.setCell r).wBA = s.wBA := rfl
@[simp] theorem State.setCell_wBD (s : State) (r : CellRegs) : (s.setCell r).wBD = s.wBD := rfl
@[simp] theorem State.setCell_busy (s : State) (r : CellRegs) : (s.setCell r).busy = s.busy := rfl
@[simp] theorem State.setCell_done (s : State) (r : CellRegs) : (s.setCell r).done = s.done := rfl
@[simp] theorem State.setCell_rv (s : State) (r : CellRegs) : (s.setCell r).rv = s.rv := rfl
@[simp] theorem State.setCell_cmderr (s : State) (r : CellRegs) : (s.setCell r).cmderr = s.cmderr := rfl
@[simp] theorem State.setCell_c (s : State) (r : CellRegs) : (s.setCell r).c = s.c := rfl
@[simp] theorem State.setCell_lba (s : State) (r : CellRegs) : (s.setCell r).lba = s.lba := rfl
@[simp] theorem State.setCell_lbd (s : State) (r : CellRegs) : (s.setCell r).lbd = s.lbd := rfl
@[simp] theorem State.setCell_inv (s : State) (r : CellRegs) : (s.setCell r).inv = s.inv := rfl
@[simp] theorem State.setCell_slot3 (s : State) (r : CellRegs) : (s.setCell r).slot3 = s.slot3 := rfl
@[simp] theorem State.setCell_cell (s : State) (r : CellRegs) : (s.setCell r).cell = r := rfl
@[simp] theorem State.setCell_rdata (s : State) (r : CellRegs) : (s.setCell r).rdata = s.rdata := rfl
@[simp] theorem State.setCell_host (s : State) (r : CellRegs) : (s.setCell r).host = s.host := rfl
@[simp] theorem State.setCell_sched (s : State) (r : CellRegs) : (s.setCell r).sched = s.sched := rfl

/-! ### setSlots -/

@[simp] theorem State.setSlots_pay (s : State) (a b c d : Rgb) : (s.setSlots a b c d).pay = s.pay := rfl
@[simp] theorem State.setSlots_ras (s : State) (a b c d : Rgb) : (s.setSlots a b c d).ras = s.ras := rfl
@[simp] theorem State.setSlots_ba (s : State) (a b c d : Rgb) : (s.setSlots a b c d).ba = s.ba := rfl
@[simp] theorem State.setSlots_bd (s : State) (a b c d : Rgb) : (s.setSlots a b c d).bd = s.bd := rfl
@[simp] theorem State.setSlots_wBA (s : State) (a b c d : Rgb) : (s.setSlots a b c d).wBA = s.wBA := rfl
@[simp] theorem State.setSlots_wBD (s : State) (a b c d : Rgb) : (s.setSlots a b c d).wBD = s.wBD := rfl
@[simp] theorem State.setSlots_busy (s : State) (a b c d : Rgb) : (s.setSlots a b c d).busy = s.busy := rfl
@[simp] theorem State.setSlots_done (s : State) (a b c d : Rgb) : (s.setSlots a b c d).done = s.done := rfl
@[simp] theorem State.setSlots_rv (s : State) (a b c d : Rgb) : (s.setSlots a b c d).rv = s.rv := rfl
@[simp] theorem State.setSlots_cmderr (s : State) (a b c d : Rgb) : (s.setSlots a b c d).cmderr = s.cmderr := rfl
@[simp] theorem State.setSlots_c (s : State) (a b c d : Rgb) : (s.setSlots a b c d).c = s.c := rfl
@[simp] theorem State.setSlots_lba (s : State) (a b c d : Rgb) : (s.setSlots a b c d).lba = s.lba := rfl
@[simp] theorem State.setSlots_lbd (s : State) (a b c d : Rgb) : (s.setSlots a b c d).lbd = s.lbd := rfl
@[simp] theorem State.setSlots_inv (s : State) (a b c d : Rgb) : (s.setSlots a b c d).inv = s.inv := rfl
@[simp] theorem State.setSlots_slot3 (s : State) (a b c d : Rgb) : (s.setSlots a b c d).slot3 = s.slot3 := rfl
@[simp] theorem State.setSlots_cell (s : State) (a b c d : Rgb) : (s.setSlots a b c d).cell = { s.cell with s0 := a, s1 := b, s2 := c, s3 := d } := rfl
@[simp] theorem State.setSlots_rdata (s : State) (a b c d : Rgb) : (s.setSlots a b c d).rdata = s.rdata := rfl
@[simp] theorem State.setSlots_host (s : State) (a b c d : Rgb) : (s.setSlots a b c d).host = s.host := rfl
@[simp] theorem State.setSlots_sched (s : State) (a b c d : Rgb) : (s.setSlots a b c d).sched = s.sched := rfl

/-! ### setCol -/

@[simp] theorem State.setCol_pay (s : State) (v : Rgb) : (s.setCol v).pay = s.pay := rfl
@[simp] theorem State.setCol_ras (s : State) (v : Rgb) : (s.setCol v).ras = s.ras := rfl
@[simp] theorem State.setCol_ba (s : State) (v : Rgb) : (s.setCol v).ba = s.ba := rfl
@[simp] theorem State.setCol_bd (s : State) (v : Rgb) : (s.setCol v).bd = s.bd := rfl
@[simp] theorem State.setCol_wBA (s : State) (v : Rgb) : (s.setCol v).wBA = s.wBA := rfl
@[simp] theorem State.setCol_wBD (s : State) (v : Rgb) : (s.setCol v).wBD = s.wBD := rfl
@[simp] theorem State.setCol_busy (s : State) (v : Rgb) : (s.setCol v).busy = s.busy := rfl
@[simp] theorem State.setCol_done (s : State) (v : Rgb) : (s.setCol v).done = s.done := rfl
@[simp] theorem State.setCol_rv (s : State) (v : Rgb) : (s.setCol v).rv = s.rv := rfl
@[simp] theorem State.setCol_cmderr (s : State) (v : Rgb) : (s.setCol v).cmderr = s.cmderr := rfl
@[simp] theorem State.setCol_c (s : State) (v : Rgb) : (s.setCol v).c = s.c := rfl
@[simp] theorem State.setCol_lba (s : State) (v : Rgb) : (s.setCol v).lba = s.lba := rfl
@[simp] theorem State.setCol_lbd (s : State) (v : Rgb) : (s.setCol v).lbd = s.lbd := rfl
@[simp] theorem State.setCol_inv (s : State) (v : Rgb) : (s.setCol v).inv = s.inv := rfl
@[simp] theorem State.setCol_slot3 (s : State) (v : Rgb) : (s.setCol v).slot3 = s.slot3 := rfl
@[simp] theorem State.setCol_cell (s : State) (v : Rgb) : (s.setCol v).cell = { s.cell with col := v } := rfl
@[simp] theorem State.setCol_rdata (s : State) (v : Rgb) : (s.setCol v).rdata = s.rdata := rfl
@[simp] theorem State.setCol_host (s : State) (v : Rgb) : (s.setCol v).host = s.host := rfl
@[simp] theorem State.setCol_sched (s : State) (v : Rgb) : (s.setCol v).sched = s.sched := rfl

/-! ### bitmapFetch -/

@[simp] theorem State.bitmapFetch_pay (s : State) (x1 y1 y2 : Nat) : (s.bitmapFetch x1 y1 y2).pay = s.pay := rfl
@[simp] theorem State.bitmapFetch_ras (s : State) (x1 y1 y2 : Nat) : (s.bitmapFetch x1 y1 y2).ras = s.ras := rfl
@[simp] theorem State.bitmapFetch_ba (s : State) (x1 y1 y2 : Nat) : (s.bitmapFetch x1 y1 y2).ba = s.ba := rfl
@[simp] theorem State.bitmapFetch_bd (s : State) (x1 y1 y2 : Nat) : (s.bitmapFetch x1 y1 y2).bd = s.bd := rfl
@[simp] theorem State.bitmapFetch_wBA (s : State) (x1 y1 y2 : Nat) : (s.bitmapFetch x1 y1 y2).wBA = s.wBA := rfl
@[simp] theorem State.bitmapFetch_wBD (s : State) (x1 y1 y2 : Nat) : (s.bitmapFetch x1 y1 y2).wBD = s.wBD := rfl
@[simp] theorem State.bitmapFetch_busy (s : State) (x1 y1 y2 : Nat) : (s.bitmapFetch x1 y1 y2).busy = s.busy := rfl
@[simp] theorem State.bitmapFetch_done (s : State) (x1 y1 y2 : Nat) : (s.bitmapFetch x1 y1 y2).done = s.done := rfl
@[simp] theorem State.bitmapFetch_rv (s : State) (x1 y1 y2 : Nat) : (s.bitmapFetch x1 y1 y2).rv = s.rv := rfl
@[simp] theorem State.bitmapFetch_cmderr (s : State) (x1 y1 y2 : Nat) : (s.bitmapFetch x1 y1 y2).cmderr = s.cmderr := rfl
@[simp] theorem State.bitmapFetch_c (s : State) (x1 y1 y2 : Nat) : (s.bitmapFetch x1 y1 y2).c = s.c := rfl
@[simp] theorem State.bitmapFetch_lba (s : State) (x1 y1 y2 : Nat) : (s.bitmapFetch x1 y1 y2).lba = s.lba := rfl
@[simp] theorem State.bitmapFetch_lbd (s : State) (x1 y1 y2 : Nat) : (s.bitmapFetch x1 y1 y2).lbd = s.lbd := rfl
@[simp] theorem State.bitmapFetch_inv (s : State) (x1 y1 y2 : Nat) : (s.bitmapFetch x1 y1 y2).inv = s.inv := rfl
@[simp] theorem State.bitmapFetch_slot3 (s : State) (x1 y1 y2 : Nat) : (s.bitmapFetch x1 y1 y2).slot3 = s.slot3 := rfl
@[simp] theorem State.bitmapFetch_cell (s : State) (x1 y1 y2 : Nat) : (s.bitmapFetch x1 y1 y2).cell = { s.cell with bm := s.payByte (bmOff x1 y1 y2) } := rfl
@[simp] theorem State.bitmapFetch_rdata (s : State) (x1 y1 y2 : Nat) : (s.bitmapFetch x1 y1 y2).rdata = s.rdata := rfl
@[simp] theorem State.bitmapFetch_host (s : State) (x1 y1 y2 : Nat) : (s.bitmapFetch x1 y1 y2).host = s.host := rfl
@[simp] theorem State.bitmapFetch_sched (s : State) (x1 y1 y2 : Nat) : (s.bitmapFetch x1 y1 y2).sched = s.sched := rfl

/-! ### cellSetup -/

@[simp] theorem State.cellSetup_pay (s : State) : s.cellSetup.pay = s.pay := rfl
@[simp] theorem State.cellSetup_ras (s : State) : s.cellSetup.ras = s.ras := rfl
@[simp] theorem State.cellSetup_ba (s : State) : s.cellSetup.ba = s.ba := rfl
@[simp] theorem State.cellSetup_bd (s : State) : s.cellSetup.bd = s.bd := rfl
@[simp] theorem State.cellSetup_wBA (s : State) : s.cellSetup.wBA = s.wBA := rfl
@[simp] theorem State.cellSetup_wBD (s : State) : s.cellSetup.wBD = s.wBD := rfl
@[simp] theorem State.cellSetup_busy (s : State) : s.cellSetup.busy = s.busy := rfl
@[simp] theorem State.cellSetup_done (s : State) : s.cellSetup.done = s.done := rfl
@[simp] theorem State.cellSetup_rv (s : State) : s.cellSetup.rv = s.rv := rfl
@[simp] theorem State.cellSetup_cmderr (s : State) : s.cellSetup.cmderr = s.cmderr := rfl
@[simp] theorem State.cellSetup_c (s : State) : s.cellSetup.c = s.c := rfl
@[simp] theorem State.cellSetup_lba (s : State) : s.cellSetup.lba = s.lba := rfl
@[simp] theorem State.cellSetup_lbd (s : State) : s.cellSetup.lbd = s.lbd := rfl
@[simp] theorem State.cellSetup_inv (s : State) : s.cellSetup.inv = s.inv := rfl
@[simp] theorem State.cellSetup_slot3 (s : State) : s.cellSetup.slot3 = s.slot3 := rfl
@[simp] theorem State.cellSetup_cell (s : State) : s.cellSetup.cell = s.setupRegs := rfl
@[simp] theorem State.cellSetup_rdata (s : State) : s.cellSetup.rdata = s.rdata := rfl
@[simp] theorem State.cellSetup_host (s : State) : s.cellSetup.host = s.host := rfl
@[simp] theorem State.cellSetup_sched (s : State) : s.cellSetup.sched = s.sched := rfl

/-! ### advanceCell -/

@[simp] theorem State.advanceCell_pay (s : State) : s.advanceCell.pay = s.pay := rfl
@[simp] theorem State.advanceCell_ras (s : State) : s.advanceCell.ras = s.ras := rfl
@[simp] theorem State.advanceCell_ba (s : State) : s.advanceCell.ba = s.ba := rfl
@[simp] theorem State.advanceCell_bd (s : State) : s.advanceCell.bd = s.bd := rfl
@[simp] theorem State.advanceCell_wBA (s : State) : s.advanceCell.wBA = s.wBA := rfl
@[simp] theorem State.advanceCell_wBD (s : State) : s.advanceCell.wBD = s.wBD := rfl
@[simp] theorem State.advanceCell_busy (s : State) : s.advanceCell.busy = s.busy := rfl
@[simp] theorem State.advanceCell_done (s : State) : s.advanceCell.done = s.done := rfl
@[simp] theorem State.advanceCell_rv (s : State) : s.advanceCell.rv = s.rv := rfl
@[simp] theorem State.advanceCell_cmderr (s : State) : s.advanceCell.cmderr = s.cmderr := rfl
@[simp] theorem State.advanceCell_c (s : State) : s.advanceCell.c = s.c + 1#8 := rfl
@[simp] theorem State.advanceCell_lba (s : State) : s.advanceCell.lba = s.lba := rfl
@[simp] theorem State.advanceCell_lbd (s : State) : s.advanceCell.lbd = s.lbd := rfl
@[simp] theorem State.advanceCell_inv (s : State) : s.advanceCell.inv = s.inv := rfl
@[simp] theorem State.advanceCell_slot3 (s : State) : s.advanceCell.slot3 = s.slot3 := rfl
@[simp] theorem State.advanceCell_cell (s : State) : s.advanceCell.cell = s.cell := rfl
@[simp] theorem State.advanceCell_rdata (s : State) : s.advanceCell.rdata = s.rdata := rfl
@[simp] theorem State.advanceCell_host (s : State) : s.advanceCell.host = s.host := rfl
@[simp] theorem State.advanceCell_sched (s : State) : s.advanceCell.sched = s.sched := rfl

/-! ### setHost -/

@[simp] theorem State.setHost_pay (s : State) (p : List HostLine) : (s.setHost p).pay = s.pay := rfl
@[simp] theorem State.setHost_ras (s : State) (p : List HostLine) : (s.setHost p).ras = s.ras := rfl
@[simp] theorem State.setHost_ba (s : State) (p : List HostLine) : (s.setHost p).ba = s.ba := rfl
@[simp] theorem State.setHost_bd (s : State) (p : List HostLine) : (s.setHost p).bd = s.bd := rfl
@[simp] theorem State.setHost_wBA (s : State) (p : List HostLine) : (s.setHost p).wBA = s.wBA := rfl
@[simp] theorem State.setHost_wBD (s : State) (p : List HostLine) : (s.setHost p).wBD = s.wBD := rfl
@[simp] theorem State.setHost_busy (s : State) (p : List HostLine) : (s.setHost p).busy = s.busy := rfl
@[simp] theorem State.setHost_done (s : State) (p : List HostLine) : (s.setHost p).done = s.done := rfl
@[simp] theorem State.setHost_rv (s : State) (p : List HostLine) : (s.setHost p).rv = s.rv := rfl
@[simp] theorem State.setHost_cmderr (s : State) (p : List HostLine) : (s.setHost p).cmderr = s.cmderr := rfl
@[simp] theorem State.setHost_c (s : State) (p : List HostLine) : (s.setHost p).c = s.c := rfl
@[simp] theorem State.setHost_lba (s : State) (p : List HostLine) : (s.setHost p).lba = s.lba := rfl
@[simp] theorem State.setHost_lbd (s : State) (p : List HostLine) : (s.setHost p).lbd = s.lbd := rfl
@[simp] theorem State.setHost_inv (s : State) (p : List HostLine) : (s.setHost p).inv = s.inv := rfl
@[simp] theorem State.setHost_slot3 (s : State) (p : List HostLine) : (s.setHost p).slot3 = s.slot3 := rfl
@[simp] theorem State.setHost_cell (s : State) (p : List HostLine) : (s.setHost p).cell = s.cell := rfl
@[simp] theorem State.setHost_rdata (s : State) (p : List HostLine) : (s.setHost p).rdata = s.rdata := rfl
@[simp] theorem State.setHost_host (s : State) (p : List HostLine) : (s.setHost p).host = p := rfl
@[simp] theorem State.setHost_sched (s : State) (p : List HostLine) : (s.setHost p).sched = s.sched := rfl

/-! ### setSched -/

@[simp] theorem State.setSched_pay (s : State) (q : List Turn) : (s.setSched q).pay = s.pay := rfl
@[simp] theorem State.setSched_ras (s : State) (q : List Turn) : (s.setSched q).ras = s.ras := rfl
@[simp] theorem State.setSched_ba (s : State) (q : List Turn) : (s.setSched q).ba = s.ba := rfl
@[simp] theorem State.setSched_bd (s : State) (q : List Turn) : (s.setSched q).bd = s.bd := rfl
@[simp] theorem State.setSched_wBA (s : State) (q : List Turn) : (s.setSched q).wBA = s.wBA := rfl
@[simp] theorem State.setSched_wBD (s : State) (q : List Turn) : (s.setSched q).wBD = s.wBD := rfl
@[simp] theorem State.setSched_busy (s : State) (q : List Turn) : (s.setSched q).busy = s.busy := rfl
@[simp] theorem State.setSched_done (s : State) (q : List Turn) : (s.setSched q).done = s.done := rfl
@[simp] theorem State.setSched_rv (s : State) (q : List Turn) : (s.setSched q).rv = s.rv := rfl
@[simp] theorem State.setSched_cmderr (s : State) (q : List Turn) : (s.setSched q).cmderr = s.cmderr := rfl
@[simp] theorem State.setSched_c (s : State) (q : List Turn) : (s.setSched q).c = s.c := rfl
@[simp] theorem State.setSched_lba (s : State) (q : List Turn) : (s.setSched q).lba = s.lba := rfl
@[simp] theorem State.setSched_lbd (s : State) (q : List Turn) : (s.setSched q).lbd = s.lbd := rfl
@[simp] theorem State.setSched_inv (s : State) (q : List Turn) : (s.setSched q).inv = s.inv := rfl
@[simp] theorem State.setSched_slot3 (s : State) (q : List Turn) : (s.setSched q).slot3 = s.slot3 := rfl
@[simp] theorem State.setSched_cell (s : State) (q : List Turn) : (s.setSched q).cell = s.cell := rfl
@[simp] theorem State.setSched_rdata (s : State) (q : List Turn) : (s.setSched q).rdata = s.rdata := rfl
@[simp] theorem State.setSched_host (s : State) (q : List Turn) : (s.setSched q).host = s.host := rfl
@[simp] theorem State.setSched_sched (s : State) (q : List Turn) : (s.setSched q).sched = q := rfl

/-! ### popTurn -/

@[simp] theorem State.popTurn_pay (s : State) : s.popTurn.pay = s.pay := rfl
@[simp] theorem State.popTurn_ras (s : State) : s.popTurn.ras = s.ras := rfl
@[simp] theorem State.popTurn_ba (s : State) : s.popTurn.ba = s.ba := rfl
@[simp] theorem State.popTurn_bd (s : State) : s.popTurn.bd = s.bd := rfl
@[simp] theorem State.popTurn_wBA (s : State) : s.popTurn.wBA = s.wBA := rfl
@[simp] theorem State.popTurn_wBD (s : State) : s.popTurn.wBD = s.wBD := rfl
@[simp] theorem State.popTurn_busy (s : State) : s.popTurn.busy = s.busy := rfl
@[simp] theorem State.popTurn_done (s : State) : s.popTurn.done = s.done := rfl
@[simp] theorem State.popTurn_rv (s : State) : s.popTurn.rv = s.rv := rfl
@[simp] theorem State.popTurn_cmderr (s : State) : s.popTurn.cmderr = s.cmderr := rfl
@[simp] theorem State.popTurn_c (s : State) : s.popTurn.c = s.c := rfl
@[simp] theorem State.popTurn_lba (s : State) : s.popTurn.lba = s.lba := rfl
@[simp] theorem State.popTurn_lbd (s : State) : s.popTurn.lbd = s.lbd := rfl
@[simp] theorem State.popTurn_inv (s : State) : s.popTurn.inv = s.inv := rfl
@[simp] theorem State.popTurn_slot3 (s : State) : s.popTurn.slot3 = s.slot3 := rfl
@[simp] theorem State.popTurn_cell (s : State) : s.popTurn.cell = s.cell := rfl
@[simp] theorem State.popTurn_rdata (s : State) : s.popTurn.rdata = s.rdata := rfl
@[simp] theorem State.popTurn_host (s : State) : s.popTurn.host = s.host := rfl
@[simp] theorem State.popTurn_sched (s : State) : s.popTurn.sched = s.sched.tail := rfl

/-! ### reject -/

@[simp] theorem State.reject_pay (s : State) : s.reject.pay = s.pay := rfl
@[simp] theorem State.reject_ras (s : State) : s.reject.ras = s.ras := rfl
@[simp] theorem State.reject_ba (s : State) : s.reject.ba = s.ba := rfl
@[simp] theorem State.reject_bd (s : State) : s.reject.bd = s.bd := rfl
@[simp] theorem State.reject_wBA (s : State) : s.reject.wBA = s.wBA := rfl
@[simp] theorem State.reject_wBD (s : State) : s.reject.wBD = s.wBD := rfl
@[simp] theorem State.reject_busy (s : State) : s.reject.busy = s.busy := rfl
@[simp] theorem State.reject_done (s : State) : s.reject.done = s.done := rfl
@[simp] theorem State.reject_rv (s : State) : s.reject.rv = s.rv := rfl
@[simp] theorem State.reject_cmderr (s : State) : s.reject.cmderr = true := rfl
@[simp] theorem State.reject_c (s : State) : s.reject.c = s.c := rfl
@[simp] theorem State.reject_lba (s : State) : s.reject.lba = s.lba := rfl
@[simp] theorem State.reject_lbd (s : State) : s.reject.lbd = s.lbd := rfl
@[simp] theorem State.reject_inv (s : State) : s.reject.inv = s.inv := rfl
@[simp] theorem State.reject_slot3 (s : State) : s.reject.slot3 = s.slot3 := rfl
@[simp] theorem State.reject_cell (s : State) : s.reject.cell = s.cell := rfl
@[simp] theorem State.reject_rdata (s : State) : s.reject.rdata = s.rdata := rfl
@[simp] theorem State.reject_host (s : State) : s.reject.host = s.host := rfl
@[simp] theorem State.reject_sched (s : State) : s.reject.sched = s.sched := rfl

/-! ### acknowledge -/

@[simp] theorem State.acknowledge_pay (s : State) : s.acknowledge.pay = s.pay := rfl
@[simp] theorem State.acknowledge_ras (s : State) : s.acknowledge.ras = s.ras := rfl
@[simp] theorem State.acknowledge_ba (s : State) : s.acknowledge.ba = s.ba := rfl
@[simp] theorem State.acknowledge_bd (s : State) : s.acknowledge.bd = s.bd := rfl
@[simp] theorem State.acknowledge_wBA (s : State) : s.acknowledge.wBA = s.wBA := rfl
@[simp] theorem State.acknowledge_wBD (s : State) : s.acknowledge.wBD = s.wBD := rfl
@[simp] theorem State.acknowledge_busy (s : State) : s.acknowledge.busy = s.busy := rfl
@[simp] theorem State.acknowledge_done (s : State) : s.acknowledge.done = false := rfl
@[simp] theorem State.acknowledge_rv (s : State) : s.acknowledge.rv = s.rv := rfl
@[simp] theorem State.acknowledge_cmderr (s : State) : s.acknowledge.cmderr = false := rfl
@[simp] theorem State.acknowledge_c (s : State) : s.acknowledge.c = s.c := rfl
@[simp] theorem State.acknowledge_lba (s : State) : s.acknowledge.lba = s.lba := rfl
@[simp] theorem State.acknowledge_lbd (s : State) : s.acknowledge.lbd = s.lbd := rfl
@[simp] theorem State.acknowledge_inv (s : State) : s.acknowledge.inv = s.inv := rfl
@[simp] theorem State.acknowledge_slot3 (s : State) : s.acknowledge.slot3 = s.slot3 := rfl
@[simp] theorem State.acknowledge_cell (s : State) : s.acknowledge.cell = s.cell := rfl
@[simp] theorem State.acknowledge_rdata (s : State) : s.acknowledge.rdata = s.rdata := rfl
@[simp] theorem State.acknowledge_host (s : State) : s.acknowledge.host = s.host := rfl
@[simp] theorem State.acknowledge_sched (s : State) : s.acknowledge.sched = s.sched := rfl

/-! ### beginRun -/

@[simp] theorem State.beginRun_pay (s : State) : s.beginRun.pay = s.pay := rfl
@[simp] theorem State.beginRun_ras (s : State) : s.beginRun.ras = s.ras := rfl
@[simp] theorem State.beginRun_ba (s : State) : s.beginRun.ba = s.ba := rfl
@[simp] theorem State.beginRun_bd (s : State) : s.beginRun.bd = s.bd := rfl
@[simp] theorem State.beginRun_wBA (s : State) : s.beginRun.wBA = s.wBA := rfl
@[simp] theorem State.beginRun_wBD (s : State) : s.beginRun.wBD = s.wBD := rfl
@[simp] theorem State.beginRun_busy (s : State) : s.beginRun.busy = true := rfl
@[simp] theorem State.beginRun_done (s : State) : s.beginRun.done = false := rfl
@[simp] theorem State.beginRun_rv (s : State) : s.beginRun.rv = false := rfl
@[simp] theorem State.beginRun_cmderr (s : State) : s.beginRun.cmderr = s.cmderr := rfl
@[simp] theorem State.beginRun_c (s : State) : s.beginRun.c = 0#8 := rfl
@[simp] theorem State.beginRun_lba (s : State) : s.beginRun.lba = s.lba := rfl
@[simp] theorem State.beginRun_lbd (s : State) : s.beginRun.lbd = s.lbd := rfl
@[simp] theorem State.beginRun_inv (s : State) : s.beginRun.inv = s.inv := rfl
@[simp] theorem State.beginRun_slot3 (s : State) : s.beginRun.slot3 = s.slot3 := rfl
@[simp] theorem State.beginRun_cell (s : State) : s.beginRun.cell = s.cell := rfl
@[simp] theorem State.beginRun_rdata (s : State) : s.beginRun.rdata = s.rdata := rfl
@[simp] theorem State.beginRun_host (s : State) : s.beginRun.host = s.host := rfl
@[simp] theorem State.beginRun_sched (s : State) : s.beginRun.sched = s.sched := rfl

/-! ### complete -/

@[simp] theorem State.complete_pay (s : State) : s.complete.pay = s.pay := rfl
@[simp] theorem State.complete_ras (s : State) : s.complete.ras = s.ras := rfl
@[simp] theorem State.complete_ba (s : State) : s.complete.ba = s.ba := rfl
@[simp] theorem State.complete_bd (s : State) : s.complete.bd = s.bd := rfl
@[simp] theorem State.complete_wBA (s : State) : s.complete.wBA = s.wBA := rfl
@[simp] theorem State.complete_wBD (s : State) : s.complete.wBD = s.wBD := rfl
@[simp] theorem State.complete_busy (s : State) : s.complete.busy = false := rfl
@[simp] theorem State.complete_done (s : State) : s.complete.done = true := rfl
@[simp] theorem State.complete_rv (s : State) : s.complete.rv = true := rfl
@[simp] theorem State.complete_cmderr (s : State) : s.complete.cmderr = s.cmderr := rfl
@[simp] theorem State.complete_c (s : State) : s.complete.c = s.c := rfl
@[simp] theorem State.complete_lba (s : State) : s.complete.lba = s.lba := rfl
@[simp] theorem State.complete_lbd (s : State) : s.complete.lbd = s.lbd := rfl
@[simp] theorem State.complete_inv (s : State) : s.complete.inv = s.inv := rfl
@[simp] theorem State.complete_slot3 (s : State) : s.complete.slot3 = s.slot3 := rfl
@[simp] theorem State.complete_cell (s : State) : s.complete.cell = s.cell := rfl
@[simp] theorem State.complete_rdata (s : State) : s.complete.rdata = s.rdata := rfl
@[simp] theorem State.complete_host (s : State) : s.complete.host = s.host := rfl
@[simp] theorem State.complete_sched (s : State) : s.complete.sched = s.sched := rfl

/-! ### frameSetup -/

@[simp] theorem State.frameSetup_pay (s : State) : s.frameSetup.pay = s.pay := rfl
@[simp] theorem State.frameSetup_ras (s : State) : s.frameSetup.ras = s.ras := rfl
@[simp] theorem State.frameSetup_ba (s : State) : s.frameSetup.ba = s.ba := rfl
@[simp] theorem State.frameSetup_bd (s : State) : s.frameSetup.bd = s.bd := rfl
@[simp] theorem State.frameSetup_wBA (s : State) : s.frameSetup.wBA = s.wBA := rfl
@[simp] theorem State.frameSetup_wBD (s : State) : s.frameSetup.wBD = s.wBD := rfl
@[simp] theorem State.frameSetup_busy (s : State) : s.frameSetup.busy = s.busy := rfl
@[simp] theorem State.frameSetup_done (s : State) : s.frameSetup.done = s.done := rfl
@[simp] theorem State.frameSetup_rv (s : State) : s.frameSetup.rv = s.rv := rfl
@[simp] theorem State.frameSetup_cmderr (s : State) : s.frameSetup.cmderr = s.cmderr := rfl
@[simp] theorem State.frameSetup_c (s : State) : s.frameSetup.c = s.c := rfl
@[simp] theorem State.frameSetup_lba (s : State) : s.frameSetup.lba = s.ba := rfl
@[simp] theorem State.frameSetup_lbd (s : State) : s.frameSetup.lbd = s.bd := rfl
@[simp] theorem State.frameSetup_inv (s : State) : s.frameSetup.inv = inverseFlag s.ba := rfl
@[simp] theorem State.frameSetup_slot3 (s : State) : s.frameSetup.slot3 = pal (fieldC3 s.bd) := rfl
@[simp] theorem State.frameSetup_cell (s : State) : s.frameSetup.cell = s.cell := rfl
@[simp] theorem State.frameSetup_rdata (s : State) : s.frameSetup.rdata = s.rdata := rfl
@[simp] theorem State.frameSetup_host (s : State) : s.frameSetup.host = s.host := rfl
@[simp] theorem State.frameSetup_sched (s : State) : s.frameSetup.sched = s.sched := rfl

/-! ### takeReset -/

@[simp] theorem State.takeReset_pay (s : State) : s.takeReset.pay = [] := rfl
@[simp] theorem State.takeReset_ras (s : State) : s.takeReset.ras = [] := rfl
@[simp] theorem State.takeReset_ba (s : State) : s.takeReset.ba = 0#8 := rfl
@[simp] theorem State.takeReset_bd (s : State) : s.takeReset.bd = 0#8 := rfl
@[simp] theorem State.takeReset_wBA (s : State) : s.takeReset.wBA = false := rfl
@[simp] theorem State.takeReset_wBD (s : State) : s.takeReset.wBD = false := rfl
@[simp] theorem State.takeReset_busy (s : State) : s.takeReset.busy = false := rfl
@[simp] theorem State.takeReset_done (s : State) : s.takeReset.done = false := rfl
@[simp] theorem State.takeReset_rv (s : State) : s.takeReset.rv = false := rfl
@[simp] theorem State.takeReset_cmderr (s : State) : s.takeReset.cmderr = false := rfl
@[simp] theorem State.takeReset_c (s : State) : s.takeReset.c = 0#8 := rfl
@[simp] theorem State.takeReset_lba (s : State) : s.takeReset.lba = 0#8 := rfl
@[simp] theorem State.takeReset_lbd (s : State) : s.takeReset.lbd = 0#8 := rfl
@[simp] theorem State.takeReset_inv (s : State) : s.takeReset.inv = false := rfl
@[simp] theorem State.takeReset_slot3 (s : State) : s.takeReset.slot3 = 0#24 := rfl
@[simp] theorem State.takeReset_cell (s : State) : s.takeReset.cell = CellRegs.idle := rfl
@[simp] theorem State.takeReset_rdata (s : State) : s.takeReset.rdata = 0#8 := rfl
@[simp] theorem State.takeReset_host (s : State) : s.takeReset.host = s.host := rfl
@[simp] theorem State.takeReset_sched (s : State) : s.takeReset.sched = s.sched := rfl

end Sys2Proof.Machine
end

