-- ==== Sys2Proof/Laws/Memory.lean ====
section
/-! SUPPORT. Memory: read after write, the canonical form, bounds; a pixel store as three bytes. -/

namespace Sys2Proof.Machine

@[simp] theorem Memory.read?_nil (x : Nat) : Memory.read? [] x = none := rfl

theorem Memory.read?_cons (a : Nat) (b : Byte) (m : Memory) (x : Nat) :
    Memory.read? ((a, b) :: m) x = if x = a then some b else Memory.read? m x := rfl

/-- A byte written reads back. -/
@[simp] theorem Memory.read?_write_same (m : Memory) (x : Nat) (v : Byte) : (m.write x v).read? x = some v := by
  induction m with
  | nil => simp [Memory.write, Memory.read?]
  | cons p m ih =>
    obtain ⟨a, b⟩ := p
    simp only [Memory.write]
    split
    · simp [Memory.read?]
    · split
      · simp [Memory.read?]
      · rename_i h
        simpa [Memory.read?, h] using ih

/-- A write leaves every other address alone. -/
theorem Memory.read?_write_other (m : Memory) (x y : Nat) (v : Byte) (h : y ≠ x) :
    (m.write x v).read? y = m.read? y := by
  induction m with
  | nil => simp [Memory.write, Memory.read?, h]
  | cons p m ih =>
    obtain ⟨a, b⟩ := p
    simp only [Memory.write]
    split
    · simp [Memory.read?, h]
    · split
      · subst_vars
        simp [Memory.read?, h]
      · simp [Memory.read?, ih]

theorem Memory.read?_write (m : Memory) (x y : Nat) (v : Byte) :
    (m.write x v).read? y = if y = x then some v else m.read? y := by
  by_cases h : y = x
  · simp [h]
  · simp [h, Memory.read?_write_other]

/-- A write lists no address but the old ones and its own. -/
theorem Memory.mem_write {m : Memory} {x : Nat} {v : Byte} {p : Host.Cell} (h : p ∈ m.write x v) :
    p = (x, v) ∨ p ∈ m := by
  induction m with
  | nil => simpa [Memory.write] using h
  | cons q m ih =>
    obtain ⟨a, b⟩ := q
    simp only [Memory.write] at h
    split at h
    · simpa using h
    · split at h
      · rcases List.mem_cons.mp h with h | h
        · exact .inl h
        · exact .inr (List.mem_cons_of_mem _ h)
      · rcases List.mem_cons.mp h with h | h
        · exact .inr (h ▸ List.mem_cons_self)
        · exact (ih h).imp_right (List.mem_cons_of_mem _)

/-- A write keeps the canonical form. -/
theorem Memory.write_wf {m : Memory} (x : Nat) (v : Byte) (h : m.wf) : (m.write x v).wf := by
  induction m with
  | nil => simp [Memory.write, Memory.wf]
  | cons p m ih =>
    obtain ⟨a, b⟩ := p
    obtain ⟨h1, h2⟩ := List.pairwise_cons.mp h
    simp only [Memory.write]
    split
    · rename_i hx
      refine List.pairwise_cons.mpr ⟨fun q hq => ?_, h⟩
      rcases List.mem_cons.mp hq with rfl | hq
      · exact hx
      · exact Nat.lt_trans hx (h1 q hq)
    · split
      · subst_vars
        exact List.pairwise_cons.mpr ⟨h1, h2⟩
      · refine List.pairwise_cons.mpr ⟨fun q hq => ?_, ih h2⟩
        rcases Memory.mem_write hq with rfl | hq
        · simp only
          omega
        · exact h1 q hq

/-- A write below a bound keeps the memory below it. -/
theorem Memory.write_below {m : Memory} {n : Nat} (x : Nat) (v : Byte) (h : m.below n) (hx : x < n) :
    (m.write x v).below n := by
  intro p hp
  rcases Memory.mem_write hp with rfl | hp
  · exact hx
  · exact h p hp

/-- Only listed addresses read as a value. -/
theorem Memory.mem_of_read? {m : Memory} {x : Nat} {v : Byte} (h : m.read? x = some v) : (x, v) ∈ m := by
  induction m with
  | nil => simp at h
  | cons p m ih =>
    obtain ⟨a, b⟩ := p
    rw [Memory.read?_cons] at h
    split at h
    · simp_all
    · exact List.mem_cons_of_mem _ (ih h)

/-- Above every listed address nothing reads as a value. -/
theorem Memory.read?_none_of_lt {m : Memory} {x : Nat} (h : ∀ p ∈ m, x < p.1) : m.read? x = none := by
  cases hr : m.read? x with
  | none => rfl
  | some v => exact absurd (h _ (Memory.mem_of_read? hr)) (Nat.lt_irrefl _)

/-- Two canonical memories that read alike are the same list. -/
theorem Memory.ext_of_wf {m m' : Memory} (h : m.wf) (h' : m'.wf) (e : ∀ x, m.read? x = m'.read? x) : m = m' := by
  induction m generalizing m' with
  | nil =>
    cases m' with
    | nil => rfl
    | cons p m' => simpa [Memory.read?] using e p.1
  | cons p m ih =>
    obtain ⟨a, b⟩ := p
    cases m' with
    | nil => simpa [Memory.read?] using e a
    | cons q m' =>
      obtain ⟨a', b'⟩ := q
      obtain ⟨h1, h2⟩ := List.pairwise_cons.mp h
      obtain ⟨h1', h2'⟩ := List.pairwise_cons.mp h'
      have first : a = a' := by
        rcases Nat.lt_trichotomy a a' with hlt | heq | hlt
        · have := e a
          rw [Memory.read?_none_of_lt (m := (a', b') :: m')] at this
          · simp [Memory.read?] at this
          · intro p hp
            rcases List.mem_cons.mp hp with rfl | hp
            · exact hlt
            · exact Nat.lt_trans hlt (h1' p hp)
        · exact heq
        · have := e a'
          rw [Memory.read?_none_of_lt (m := (a, b) :: m)] at this
          · simp [Memory.read?] at this
          · intro p hp
            rcases List.mem_cons.mp hp with rfl | hp
            · exact hlt
            · exact Nat.lt_trans hlt (h1 p hp)
      subst first
      have hb : b = b' := by simpa [Memory.read?] using e a
      subst hb
      congr 1
      refine ih h2 h2' fun x => ?_
      by_cases hx : x = a
      · subst hx
        rw [Memory.read?_none_of_lt h1, Memory.read?_none_of_lt h1']
      · simpa [Memory.read?, hx] using e x

/-! ### A pixel store -/

/-- What a byte of the raster reads as after a pixel store. -/
theorem storePixel_read? (m : Memory) (p q : Nat) (v : Rgb) :
    (storePixel m p v).read? q
      = if q = rasOff p 2 then some (blue v) else if q = rasOff p 1 then some (green v)
        else if q = rasOff p 0 then some (red v) else m.read? q := by
  simp only [storePixel, Memory.read?_write]

/-- A pixel store leaves the bytes of other pixels alone. -/
theorem storePixel_read?_other (m : Memory) (p q : Nat) (v : Rgb) (h : q / 3 ≠ p) :
    (storePixel m p v).read? q = m.read? q := by
  rw [storePixel_read?]
  have h2 : q ≠ rasOff p 2 := by unfold rasOff; omega
  have h1 : q ≠ rasOff p 1 := by unfold rasOff; omega
  have h0 : q ≠ rasOff p 0 := by unfold rasOff; omega
  simp [h0, h1, h2]

/-- The three bytes of the stored pixel. -/
theorem storePixel_read?_same (m : Memory) (p k : Nat) (v : Rgb) (hk : k < 3) :
    (storePixel m p v).read? (rasOff p k) = some (if k = 0 then red v else if k = 1 then green v else blue v) := by
  rw [storePixel_read?]
  rcases (by omega : k = 0 ∨ k = 1 ∨ k = 2) with rfl | rfl | rfl <;> simp [rasOff]

theorem storePixel_wf {m : Memory} (p : Nat) (v : Rgb) (h : m.wf) : (storePixel m p v).wf :=
  Memory.write_wf _ _ (Memory.write_wf _ _ (Memory.write_wf _ _ h))

theorem storePixel_below {m : Memory} (p : Nat) (v : Rgb) (h : m.below 92160) (hp : p < 30720) :
    (storePixel m p v).below 92160 := by
  refine Memory.write_below _ _ (Memory.write_below _ _ (Memory.write_below _ _ h ?_) ?_) ?_ <;> unfold rasOff <;> omega

/-- A colour is its three components. -/
theorem components_append (v : Rgb) : red v ++ green v ++ blue v = v := by
  apply BitVec.eq_of_getLsbD_eq
  intro i hi
  simp only [red, green, blue, BitVec.getLsbD_append, BitVec.getLsbD_extractLsb']
  by_cases h8 : i < 8
  · simp [h8]
  · by_cases h16 : i - 8 < 8
    · simp [h8, h16, show 8 + (i - 8) = i by omega]
    · simp [h8, h16, show i - 8 - 8 < 8 by omega, show 16 + (i - 8 - 8) = i by omega]

/-- The stored pixel reads back. -/
@[simp] theorem State.rasPixel_pixelWrite_same (s : State) (x y : Nat) (v : Rgb) :
    (s.pixelWrite x y v).rasPixel (pixelIndex x y) = v := by
  simp only [State.rasPixel, State.rasByte, State.pixelWrite_ras]
  rw [storePixel_read?_same _ _ 0 _ (by omega), storePixel_read?_same _ _ 1 _ (by omega),
    storePixel_read?_same _ _ 2 _ (by omega)]
  simpa using components_append v

/-- Other pixels read as before. -/
theorem State.rasPixel_pixelWrite_other (s : State) (x y p : Nat) (v : Rgb) (h : p ≠ pixelIndex x y) :
    (s.pixelWrite x y v).rasPixel p = s.rasPixel p := by
  have off : ∀ k, k < 3 → (storePixel s.ras (pixelIndex x y) v).read? (rasOff p k) = s.ras.read? (rasOff p k) := by
    intro k hk
    apply storePixel_read?_other
    unfold rasOff
    omega
  simp only [State.rasPixel, State.rasByte, State.pixelWrite_ras]
  rw [off 0 (by omega), off 1 (by omega), off 2 (by omega)]

theorem State.rasPixel_pixelWrite (s : State) (x y p : Nat) (v : Rgb) :
    (s.pixelWrite x y v).rasPixel p = if p = pixelIndex x y then v else s.rasPixel p := by
  split
  · subst_vars
    exact State.rasPixel_pixelWrite_same ..
  · exact State.rasPixel_pixelWrite_other _ _ _ _ _ ‹_›

/-! ### The payload -/

theorem State.wPAY_payStore (s : State) (o o' : Nat) (v : Byte) :
    (s.payStore o v).wPAY o' = (decide (o' = o) || s.wPAY o') := by
  simp only [State.wPAY, State.payStore_pay, Memory.read?_write]
  by_cases h : o' = o <;> simp [h]

/-- START's input check, as R194 words it. -/
theorem State.inputsWritten_iff (s : State) :
    s.inputsWritten = true ↔ s.wBA = true ∧ s.wBD = true ∧ ∀ o, o < 3960 → s.wPAY o = true := by
  simp [State.inputsWritten, and_assoc]

/-- A block of consecutive addresses is listed throughout. -/
theorem Memory.read?_block (a n : Nat) (f : Nat → Byte) (x : Nat) (h : a ≤ x) (h' : x < a + n) :
    Memory.read? ((List.range' a n).map fun o => (o, f o)) x = some (f x) := by
  induction n generalizing a with
  | zero => omega
  | succ n ih =>
    simp only [List.range'_succ, List.map_cons, Memory.read?_cons]
    split
    · subst_vars
      rfl
    · exact ih (a + 1) (by omega) (by omega)

end Sys2Proof.Machine
end

