-- ==== Sys2Proof/Laws/Engine.lean ====
section
/-! SUPPORT. What the engine's operations can do, said once: each answers a next state that paints known pixels and keeps the rest. -/

namespace Sys2Proof.Machine

@[simp] theorem andThen_next (s : State) (f : State → Result) : andThen (.next s) f = f s := rfl

@[simp] theorem andThen_fault (e : Fault) (f : State → Result) : andThen (.fault e) f = .fault e := rfl

@[simp] theorem andThen_refused (e : Refusal) (f : State → Result) : andThen (.refused e) f = .refused e := rfl

/-- A sequence answers next exactly when both parts do. -/
theorem andThen_eq_next {r : Result} {f : State → Result} {u : State} (h : andThen r f = .next u) :
    ∃ t, r = .next t ∧ f t = .next u := by
  cases r with
  | next t => exact ⟨t, rfl, h⟩
  | fault e => simp at h
  | refused e => simp at h

@[simp] theorem forEach_nil (body : Nat → State → Result) (s : State) : forEach [] body s = .next s := rfl

@[simp] theorem forEach_cons (i : Nat) (is : List Nat) (body : Nat → State → Result) (s : State) :
    forEach (i :: is) body s = andThen (body i s) (forEach is body) := rfl

/-! ### Painting -/

/-- From `s` to `t` only the raster and the working registers changed, and of the raster exactly the pixels of `S`
hold the colours `f` gives; every byte of another pixel is as it was. -/
structure Painted (s t : State) (S : Nat → Prop) (f : Nat → Rgb) : Prop where
  keeps : t = { s with ras := t.ras, cell := t.cell }
  inside : ∀ p k, S p → k < 3 → t.ras.read? (rasOff p k) = some (component (f p) k)
  outside : ∀ q, ¬ S (q / 3) → t.ras.read? q = s.ras.read? q
  wf : s.ras.wf → t.ras.wf
  below : (∀ p, S p → p < 30720) → s.ras.below 92160 → t.ras.below 92160

theorem Painted.refl (s : State) (f : Nat → Rgb) : Painted s s (fun _ => False) f :=
  ⟨rfl, fun _ _ h => h.elim, fun _ _ => rfl, id, fun _ => id⟩

/-- Only the working registers changed. -/
theorem Painted.setCell (s : State) (r : CellRegs) (f : Nat → Rgb) : Painted s (s.setCell r) (fun _ => False) f :=
  ⟨rfl, fun _ _ h => h.elim, fun _ _ => rfl, id, fun _ => id⟩

theorem rasOff_div (p k : Nat) (hk : k < 3) : rasOff p k / 3 = p := by unfold rasOff; omega

/-- Two paintings of one picture are one painting. -/
theorem Painted.trans {s t u : State} {S S' : Nat → Prop} {f : Nat → Rgb}
    (h : Painted s t S f) (h' : Painted t u S' f) : Painted s u (fun p => S p ∨ S' p) f := by
  refine ⟨?_, fun p k hp hk => ?_, fun q hq => ?_, fun hw => h'.wf (h.wf hw), fun hS hb => ?_⟩
  · rw [h'.keeps, h.keeps]
  · by_cases hp' : S' p
    · exact h'.inside p k hp' hk
    · rw [h'.outside _ (by rwa [rasOff_div p k hk])]
      exact h.inside p k (hp.resolve_right hp') hk
  · rw [h'.outside q fun h2 => hq (.inr h2), h.outside q fun h1 => hq (.inl h1)]
  · exact h'.below (fun p hp => hS p (.inr hp)) (h.below (fun p hp => hS p (.inl hp)) hb)

theorem Painted.congr {s t : State} {S S' : Nat → Prop} {f : Nat → Rgb} (h : Painted s t S f)
    (e : ∀ p, S p ↔ S' p) : Painted s t S' f :=
  (funext fun p => propext (e p) : S = S') ▸ h

/-- The painted pixels read as the picture's colours. -/
theorem Painted.rasPixel {s t : State} {S : Nat → Prop} {f : Nat → Rgb} (h : Painted s t S f) (p : Nat) (hp : S p) :
    t.rasPixel p = f p := by
  simp only [State.rasPixel, State.rasByte]
  rw [h.inside p 0 hp (by omega), h.inside p 1 hp (by omega), h.inside p 2 hp (by omega)]
  exact components_append (f p)

/-- A single pixel write paints one pixel. -/
theorem Painted.pixelWrite (s : State) (x y : Nat) (v : Rgb) (f : Nat → Rgb) (hv : f (pixelIndex x y) = v) :
    Painted s (s.pixelWrite x y v) (fun p => p = pixelIndex x y) f := by
  refine ⟨rfl, fun p k hp hk => ?_, fun q hq => ?_, fun h => storePixel_wf _ _ h, fun hS hb => ?_⟩
  · subst hp
    rw [State.pixelWrite_ras, storePixel_read?_same _ _ _ _ hk, hv]
    rfl
  · exact storePixel_read?_other _ _ _ _ hq
  · exact storePixel_below _ _ hb (hS _ rfl)

/-- A loop of paintings is a painting; `J` holds throughout. -/
theorem forEach_paints {J : State → Prop} {f : Nat → Rgb} {S : Nat → Nat → Prop} {body : Nat → State → Result} :
    ∀ (l : List Nat) (s : State), J s →
      (∀ i ∈ l, ∀ s', J s' → ∃ t, body i s' = .next t ∧ J t ∧ Painted s' t (S i) f) →
      ∃ t, forEach l body s = .next t ∧ J t ∧ Painted s t (fun p => ∃ i ∈ l, S i p) f
  | [], s, hJ, _ => ⟨s, rfl, hJ, (Painted.refl s f).congr (by simp)⟩
  | i :: is, s, hJ, h => by
    obtain ⟨t, ht, hJt, hp⟩ := h i List.mem_cons_self s hJ
    obtain ⟨u, hu, hJu, hp'⟩ := forEach_paints is t hJt fun j hj => h j (List.mem_cons_of_mem _ hj)
    exact ⟨u, by simp [ht, hu], hJu, (hp.trans hp').congr (by simp)⟩

/-! ### Pixel codes -/

/-- The colour a hi-res code selects (42_pixel_expansion.md R163, R164). -/
def hrColour (r : CellRegs) (b : BitVec 1) : Rgb := if b = 0#1 then r.s0 else r.s1

/-- The colour a multicolor code selects (R166 to R169). -/
def mcColour (r : CellRegs) (v : BitVec 2) : Rgb :=
  if v = 0b00#2 then r.s0 else if v = 0b01#2 then r.s1 else if v = 0b10#2 then r.s2 else r.s3

/-- Executing a hi-res code. -/
theorem exec_decodeHrpix (b : BitVec 1) (s : State) :
    exec (decodeHrpix b) s = .next (s.setCol (hrColour s.cell b)) := by
  unfold decodeHrpix hrColour
  split <;> rfl

/-- Executing a multicolor code. -/
theorem exec_decodeMcpix (v : BitVec 2) (s : State) :
    exec (decodeMcpix v) s = .next (s.setCol (mcColour s.cell v)) := by
  unfold decodeMcpix mcColour
  repeat' split
  all_goals rfl

/-- One hi-res pixel. -/
theorem hrPixel_eq (x1 y1 y2 x2 : Nat) (s : State) :
    hrPixel x1 y1 y2 x2 s
      = .next ((s.setCol (hrColour s.cell (hrCode s.cell.bm x2))).pixelWrite (8 * x1 + x2) (16 * y1 + y2)
          (hrColour s.cell (hrCode s.cell.bm x2))) := by
  simp [hrPixel, exec_decodeHrpix]

/-- One multicolor pair of pixels. -/
theorem mcPixelPair_eq (x1 y1 y2 x2 : Nat) (s : State) :
    mcPixelPair x1 y1 y2 x2 s
      = .next (((s.setCol (mcColour s.cell (mcCode s.cell.bm x2))).pixelWrite (8 * x1 + x2) (16 * y1 + y2)
          (mcColour s.cell (mcCode s.cell.bm x2))).pixelWrite (8 * x1 + x2 + 1) (16 * y1 + y2)
          (mcColour s.cell (mcCode s.cell.bm x2))) := by
  simp [mcPixelPair, exec_decodeMcpix]

/-! ### Rows -/

/-- The working registers differ from `r` in `col` alone. -/
def SameButCol (r : CellRegs) (s : State) : Prop := ∃ v, s.cell = { r with col := v }

/-- The pixels of a cell's scanline. -/
def InRow (x1 y1 y2 : Nat) (p : Nat) : Prop := ∃ x2, x2 < 8 ∧ p = pixelIndex (8 * x1 + x2) (16 * y1 + y2)

/-- HR_ROW_EXPAND paints its row. -/
theorem hrRowExpand_paints (x1 y1 y2 : Nat) (s : State) (f : Nat → Rgb)
    (hf : ∀ x2, x2 < 8 → f (pixelIndex (8 * x1 + x2) (16 * y1 + y2)) = hrColour s.cell (hrCode s.cell.bm x2)) :
    ∃ t, hrRowExpand x1 y1 y2 s = .next t ∧ SameButCol s.cell t ∧ Painted s t (InRow x1 y1 y2) f := by
  obtain ⟨t, ht, hJ, hp⟩ := forEach_paints (J := SameButCol s.cell) (f := f)
    (S := fun x2 p => p = pixelIndex (8 * x1 + x2) (16 * y1 + y2)) (body := hrPixel x1 y1 y2)
    [0, 1, 2, 3, 4, 5, 6, 7] s ⟨s.cell.col, rfl⟩ (by
      rintro i hi s' ⟨v, hv⟩
      have hi8 : i < 8 := by simp at hi; omega
      refine ⟨_, hrPixel_eq .., ⟨hrColour s'.cell (hrCode s'.cell.bm i), ?_⟩, ?_⟩
      · simp [hv]
      · refine ((Painted.setCell s' _ f).trans (Painted.pixelWrite _ _ _ _ f ?_)).congr (by simp)
        simp only [hv]
        exact hf i hi8)
  refine ⟨t, ht, hJ, hp.congr fun p => ?_⟩
  constructor
  · rintro ⟨i, hi, rfl⟩
    exact ⟨i, by simp at hi; omega, rfl⟩
  · rintro ⟨i, hi, rfl⟩
    exact ⟨i, by simp; omega, rfl⟩

/-- MC_ROW_EXPAND paints its row: both columns of a pair take the pair's colour. -/
theorem mcRowExpand_paints (x1 y1 y2 : Nat) (s : State) (f : Nat → Rgb)
    (hf : ∀ x2, x2 < 8 →
      f (pixelIndex (8 * x1 + x2) (16 * y1 + y2)) = mcColour s.cell (mcCode s.cell.bm (x2 / 2 * 2))) :
    ∃ t, mcRowExpand x1 y1 y2 s = .next t ∧ SameButCol s.cell t ∧ Painted s t (InRow x1 y1 y2) f := by
  obtain ⟨t, ht, hJ, hp⟩ := forEach_paints (J := SameButCol s.cell) (f := f)
    (S := fun x2 p => p = pixelIndex (8 * x1 + x2) (16 * y1 + y2) ∨ p = pixelIndex (8 * x1 + x2 + 1) (16 * y1 + y2))
    (body := mcPixelPair x1 y1 y2) [0, 2, 4, 6] s ⟨s.cell.col, rfl⟩ (by
      rintro i hi s' ⟨v, hv⟩
      have hi8 : i < 7 ∧ i / 2 * 2 = i ∧ (i + 1) / 2 * 2 = i := by simp at hi; omega
      refine ⟨_, mcPixelPair_eq .., ⟨mcColour s'.cell (mcCode s'.cell.bm i), ?_⟩, ?_⟩
      · simp [hv]
      · refine (((Painted.setCell s' _ f).trans (Painted.pixelWrite _ _ _ _ f ?_)).trans
          (Painted.pixelWrite _ _ _ _ f ?_)).congr (by simp)
        · simp only [hv]
          rw [hf i (by omega), hi8.2.1]
          rfl
        · simp only [hv]
          rw [Nat.add_assoc, hf (i + 1) (by omega), hi8.2.2]
          rfl)
  refine ⟨t, ht, hJ, hp.congr fun p => ?_⟩
  constructor
  · rintro ⟨i, hi, rfl | rfl⟩
    · exact ⟨i, by simp at hi; omega, rfl⟩
    · exact ⟨i + 1, by simp at hi; omega, rfl⟩
  · rintro ⟨i, hi, rfl⟩
    rcases (by omega : i % 2 = 0 ∨ i % 2 = 1) with h | h
    · exact ⟨i, by simp; omega, .inl rfl⟩
    · exact ⟨i - 1, by simp; omega, .inr (by rw [Nat.add_assoc, Nat.sub_add_cancel (by omega)])⟩

/-! ### Cells -/

/-- The colour of a column of a scanline byte, for a cell's working registers. -/
def cellPixel (r : CellRegs) (bm : Byte) (x2 : Nat) : Rgb :=
  if r.mc then mcColour r (mcCode bm (x2 / 2 * 2)) else hrColour r (hrCode bm x2)

/-- The working registers differ from `r` in `bm` and `col` alone. -/
def SameSlots (r : CellRegs) (s : State) : Prop := ∃ b v, s.cell = { r with bm := b, col := v }

/-- One scanline paints its row from the fetched byte. -/
theorem scanline_paints (x1 y1 y2 : Nat) (s : State) (r : CellRegs) (f : Nat → Rgb) (hr : SameSlots r s)
    (hf : ∀ x2, x2 < 8 →
      f (pixelIndex (8 * x1 + x2) (16 * y1 + y2)) = cellPixel r (s.payByte (bmOff x1 y1 y2)) x2) :
    ∃ t, scanline x1 y1 y2 s = .next t ∧ SameSlots r t ∧ Painted s t (InRow x1 y1 y2) f := by
  obtain ⟨b, v, hc⟩ := hr
  have base : Painted s (s.bitmapFetch x1 y1 y2) (fun _ => False) f := Painted.setCell s _ f
  have slots : ∀ t, SameButCol (s.bitmapFetch x1 y1 y2).cell t → SameSlots r t := by
    rintro t ⟨w, hw⟩
    exact ⟨s.payByte (bmOff x1 y1 y2), w, by simp [hw, hc]⟩
  unfold scanline
  by_cases hm : r.mc = true
  · obtain ⟨t, ht, hs, hp⟩ := mcRowExpand_paints x1 y1 y2 (s.bitmapFetch x1 y1 y2) f (by
      intro x2 hx
      rw [hf x2 hx]
      simp [cellPixel, hm, mcColour, hc])
    exact ⟨t, by simp [hc, hm, ht], slots t hs, (base.trans hp).congr (by simp)⟩
  · obtain ⟨t, ht, hs, hp⟩ := hrRowExpand_paints x1 y1 y2 (s.bitmapFetch x1 y1 y2) f (by
      intro x2 hx
      rw [hf x2 hx]
      simp [cellPixel, hm, hrColour, hc])
    exact ⟨t, by simp [hc, hm, ht], slots t hs, (base.trans hp).congr (by simp)⟩

/-- The pixels of a cell. -/
def InCell (x1 y1 : Nat) (p : Nat) : Prop := ∃ y2, y2 < 16 ∧ InRow x1 y1 y2 p

/-- The picture of a cell, by pixel index. -/
def cellPicture (r : CellRegs) (pay : Nat → Byte) (x1 y1 p : Nat) : Rgb :=
  cellPixel r (pay (bmOff x1 y1 (p / 160 % 16))) (p % 160 % 8)

/-- The scanline loop paints the cell. -/
theorem scanlines_paints (x1 y1 : Nat) (s : State) (hx : x1 < 20) :
    ∃ t, scanlines x1 y1 s = .next t ∧ SameSlots s.cell t
      ∧ Painted s t (InCell x1 y1) (cellPicture s.cell s.payByte x1 y1) := by
  obtain ⟨t, ht, hJ, hp⟩ := forEach_paints (J := fun t => SameSlots s.cell t ∧ t.pay = s.pay)
    (f := cellPicture s.cell s.payByte x1 y1) (S := fun y2 => InRow x1 y1 y2) (body := scanline x1 y1)
    [0, 1, 2, 3, 4, 5, 6, 7, 8, 9, 10, 11, 12, 13, 14, 15] s ⟨⟨s.cell.bm, s.cell.col, rfl⟩, rfl⟩ (by
      rintro y2 hy s' ⟨hs', hpay⟩
      have hy16 : y2 < 16 := by simp at hy; omega
      obtain ⟨t, ht, hs, hp⟩ := scanline_paints x1 y1 y2 s' s.cell (cellPicture s.cell s.payByte x1 y1) hs' (by
        intro x2 hx2
        have e1 : pixelIndex (8 * x1 + x2) (16 * y1 + y2) / 160 % 16 = y2 := by unfold pixelIndex; omega
        have e2 : pixelIndex (8 * x1 + x2) (16 * y1 + y2) % 160 % 8 = x2 := by unfold pixelIndex; omega
        simp only [cellPicture, e1, e2, State.payByte, hpay])
      exact ⟨t, ht, ⟨hs, by rw [hp.keeps, ← hpay]⟩, hp⟩)
  refine ⟨t, ht, hJ.1, hp.congr fun p => ?_⟩
  constructor
  · rintro ⟨i, hi, h⟩
    exact ⟨i, by simp at hi; omega, h⟩
  · rintro ⟨i, hi, h⟩
    exact ⟨i, by simp; omega, h⟩

/-- The working registers after CELL_SETUP and the cell operation it selects (41_cell_setup.md R141 to R143). -/
def State.operatedRegs (s : State) : CellRegs :=
  let r := s.setupRegs
  let bg := pal (fieldBG s.lba)
  let lo := pal (zext4 (fieldC2 s.lba))
  let cc := pal (zext4 r.c1)
  if r.mc then { r with s0 := bg, s1 := lo, s2 := cc, s3 := s.slot3 }
  else if fieldNRM s.lba = 1#1 then { r with s0 := bg, s1 := cc, s2 := lo, s3 := s.slot3 }
  else { r with s0 := cc, s1 := bg, s2 := lo, s3 := s.slot3 }

theorem decodeCellsel_key (mc : Bool) (a : Byte) :
    decodeCellsel (cellselKey mc a)
      = if mc then .cellMc (fieldNRM a) else if fieldNRM a = 1#1 then .cellHrNormal else .cellHrInverse := by
  unfold cellselKey
  generalize fieldNRM a = v
  revert v
  cases mc <;> decide

/-- The selected cell operation answers a next state. -/
theorem cellOperation_cellSetup (s : State) : cellOperation s.cellSetup = .next (s.setCell s.operatedRegs) := by
  unfold cellOperation State.operatedRegs
  rw [State.cellSetup_cell, State.cellSetup_lba, decodeCellsel_key]
  dsimp only
  split
  · rfl
  · split <;> rfl

/-- CELL_STEP answers a next state: it paints its cell, then ends it. -/
theorem cellStep_paints (s : State) :
    ∃ u, cellStep s = .next u.finishCell
      ∧ Painted s u (InCell (cellCol s.c) (cellRow s.c))
          (cellPicture s.operatedRegs s.payByte (cellCol s.c) (cellRow s.c)) := by
  obtain ⟨u, hu, _, hp⟩ := scanlines_paints (cellCol s.c) (cellRow s.c) (s.setCell s.operatedRegs)
    (by unfold cellCol; omega)
  refine ⟨u, by simp [cellStep, cellOperation_cellSetup, hu], ?_⟩
  exact ((Painted.setCell s s.operatedRegs _).trans hp).congr (by simp)

/-- The end of a cell that is not the last. -/
theorem finishCell_more {s : State} (h : s.c.toNat < 239) :
    s.finishCell = { s with cell := CellRegs.idle, c := s.c + 1#8 } := by
  have : (s.c + 1#8).toNat ≠ 240 := by
    rw [BitVec.toNat_add]
    simp
    omega
  unfold State.finishCell
  exact if_neg this

/-- The end of the last cell: COMPLETE (42_pixel_expansion.md R171). -/
theorem finishCell_last {s : State} (h : s.c.toNat = 239) :
    s.finishCell = { s with cell := CellRegs.idle, c := 240#8, busy := false, done := true, rv := true } := by
  have hc : s.c = 239#8 := by
    apply BitVec.eq_of_toNat_eq
    simpa using h
  simp [State.finishCell, hc, State.setCell, State.advanceCell, State.complete]

@[simp] theorem State.finishCell_ras (s : State) : s.finishCell.ras = s.ras := by
  unfold State.finishCell; dsimp only; split <;> rfl

@[simp] theorem State.finishCell_pay (s : State) : s.finishCell.pay = s.pay := by
  unfold State.finishCell; dsimp only; split <;> rfl

@[simp] theorem State.finishCell_cell (s : State) : s.finishCell.cell = CellRegs.idle := by
  unfold State.finishCell; dsimp only; split <;> rfl

@[simp] theorem State.finishCell_c (s : State) : s.finishCell.c = s.c + 1#8 := by
  unfold State.finishCell; dsimp only; split <;> rfl

/-- A turn of the engine always answers a next state. -/
theorem engineTurn_next (s : State) : ∃ t, engineTurn s = .next t := by
  unfold engineTurn
  split
  · obtain ⟨u, hu, _⟩ := cellStep_paints s
    exact ⟨_, hu⟩
  · exact ⟨s, rfl⟩

/-! ### Engine runs -/

@[simp] theorem engineRun_zero (s : State) : engineRun 0 s = .next s := rfl

theorem engineRun_succ (k : Nat) (s : State) : engineRun (k + 1) s = andThen (engineTurn s) (engineRun k) := rfl

/-- An enabled turn of the engine is CELL_STEP. -/
theorem engineTurn_enabled {s : State} (hb : s.busy = true) (hc : s.c.toNat < 240) : engineTurn s = cellStep s := by
  simp [engineTurn, engineEnabled, hb, hc]

theorem inverseFlag_eq (a : Byte) : inverseFlag a = !a.getLsbD 3 := by
  revert a
  decide +kernel

theorem multicolorFlag_eq (n : BitVec 4) : multicolorFlag n = n.getLsbD 3 := by
  revert n
  decide

theorem fieldNRM_eq_one (a : Byte) : fieldNRM a = 1#1 ↔ a.getLsbD 3 = true := by
  revert a
  decide +kernel

/-! ### What the scanline loop reads -/

/-- A body that reads the payload, the raster and the working registers, and writes the last two. -/
def ReadsOnlyWork (f : State → Result) : Prop :=
  ∀ s s' : State, s.pay = s'.pay → s.ras = s'.ras → s.cell = s'.cell →
    ∃ m r, f s = .next { s with ras := m, cell := r } ∧ f s' = .next { s' with ras := m, cell := r }

theorem forEach_readsOnlyWork {body : Nat → State → Result} (h : ∀ i, ReadsOnlyWork (body i)) :
    ∀ l, ReadsOnlyWork (forEach l body)
  | [], s, s', _, hr, hc => ⟨s.ras, s.cell, rfl, by rw [hr, hc]; rfl⟩
  | i :: is, s, s', hp, hr, hc => by
    obtain ⟨m, r, e, e'⟩ := h i s s' hp hr hc
    obtain ⟨m2, r2, e2, e2'⟩ := forEach_readsOnlyWork h is _ _
      (show ({ s with ras := m, cell := r } : State).pay = ({ s' with ras := m, cell := r } : State).pay from hp) rfl rfl
    exact ⟨m2, r2, by rw [forEach_cons, e, andThen_next, e2], by rw [forEach_cons, e', andThen_next, e2']⟩

theorem hrPixel_readsOnlyWork (x1 y1 y2 x2 : Nat) : ReadsOnlyWork (hrPixel x1 y1 y2 x2) := by
  intro s s' _ hr hc
  rw [hrPixel_eq, hrPixel_eq, ← hc]
  refine ⟨_, _, rfl, ?_⟩
  unfold State.setCol
  rw [← hc]
  simp only [State.pixelWrite, State.rasStore, State.setCell, ← hr]

theorem mcPixelPair_readsOnlyWork (x1 y1 y2 x2 : Nat) : ReadsOnlyWork (mcPixelPair x1 y1 y2 x2) := by
  intro s s' _ hr hc
  rw [mcPixelPair_eq, mcPixelPair_eq, ← hc]
  refine ⟨_, _, rfl, ?_⟩
  unfold State.setCol
  rw [← hc]
  simp only [State.pixelWrite, State.rasStore, State.setCell, ← hr]

theorem scanline_readsOnlyWork (x1 y1 y2 : Nat) : ReadsOnlyWork (scanline x1 y1 y2) := by
  intro s s' hp hr hc
  have row : ∀ f : State → Result, ReadsOnlyWork f → ∃ m r, f (s.bitmapFetch x1 y1 y2) = .next { s with ras := m, cell := r }
      ∧ f (s'.bitmapFetch x1 y1 y2) = .next { s' with ras := m, cell := r } := fun f hf =>
    hf _ _ hp hr (by simp [State.payByte, hp, hc])
  unfold scanline
  dsimp only
  rw [State.bitmapFetch_cell, State.bitmapFetch_cell, ← hc]
  dsimp only
  split
  · exact row _ (forEach_readsOnlyWork (mcPixelPair_readsOnlyWork x1 y1 y2) _)
  · exact row _ (forEach_readsOnlyWork (hrPixel_readsOnlyWork x1 y1 y2) _)

/-- The scanline loop reads nothing but the payload, the raster and the working registers. -/
theorem scanlines_readsOnlyWork (x1 y1 : Nat) : ReadsOnlyWork (scanlines x1 y1) :=
  forEach_readsOnlyWork (scanline_readsOnlyWork x1 y1) _

end Sys2Proof.Machine
end

