-- ==== Sys2Proof/Laws/Exec.lean ====
section
/-! SUPPORT. Everything an instruction, a host turn and a step can do when they answer a next state. -/

namespace Sys2Proof.Machine

/-- The instructions that read a byte for the host. -/
def isRead (i : Instr) : Bool :=
  match i.op with
  | .lbPay | .lbRsv | .lbCmd | .lbStatus | .lbBa | .lbBd | .lbRas => true
  | _ => false

/-- The instructions whose rule says "no state changes" (43_host_interface.md R193, R198, R204, R206). -/
def isIdle (i : Instr) : Bool :=
  match i.op with
  | .cmdNop | .sbStatus | .sbRas | .sbRsv => true
  | _ => false

/-- Everything an instruction can do when it answers a next state. -/
theorem exec_next_cases {i : Instr} {s t : State} (h : exec i s = .next t) :
    (isIdle i = true ∧ t = s)
      ∨ (((∃ a d, i = .sbPay a d ∧ s.busy = true) ∨ (i = .cmdStart ∧ s.busy = true) ∨ ∃ d, i = .cmdRsv d)
          ∧ t = s.reject)
      ∨ (∃ a d, i = .sbPay a d ∧ s.busy = false ∧ t = s.payStore a.toNat d)
      ∨ (i = .cmdStart ∧ s.busy = false ∧ s.inputsWritten = true ∧ t = s.frameSetup.beginRun)
      ∨ (i = .cmdAck ∧ t = s.acknowledge)
      ∨ (∃ d, i = .sbBa d ∧ t = s.setBa d)
      ∨ (∃ d, i = .sbBd d ∧ t = s.setBd d)
      ∨ (isRead i = true ∧ ∃ b, t = s.setRdata b)
      ∨ (i.format ≠ .hbus ∧ ∃ r, t = s.setCell r) := by
  cases i with
  | sbPay a d =>
    simp only [exec, execSbPay] at h
    split at h <;> cases h
    · exact .inr (.inl ⟨.inl ⟨a, d, rfl, ‹_›⟩, rfl⟩)
    · exact .inr (.inr (.inl ⟨a, d, rfl, eq_false_of_ne_true ‹_›, rfl⟩))
  | lbPay a d =>
    simp only [exec, execLbPay] at h
    split at h <;> cases h
    exact .inr (.inr (.inr (.inr (.inr (.inr (.inr (.inl ⟨rfl, _, rfl⟩)))))))
  | sbRsv a d => cases h; exact .inl ⟨rfl, rfl⟩
  | lbRsv a d => cases h; exact .inr (.inr (.inr (.inr (.inr (.inr (.inr (.inl ⟨rfl, _, rfl⟩)))))))
  | cmdNop => cases h; exact .inl ⟨rfl, rfl⟩
  | cmdStart =>
    simp only [exec, execCmdStart] at h
    split at h
    · cases h
      exact .inr (.inl ⟨.inr (.inl ⟨rfl, ‹_›⟩), rfl⟩)
    · split at h <;> cases h
      exact .inr (.inr (.inr (.inl ⟨rfl, eq_false_of_ne_true ‹_›, ‹_›, rfl⟩)))
  | cmdAck => cases h; exact .inr (.inr (.inr (.inr (.inl ⟨rfl, rfl⟩))))
  | cmdRsv d => cases h; exact .inr (.inl ⟨.inr (.inr ⟨d, rfl⟩), rfl⟩)
  | lbCmd d => cases h; exact .inr (.inr (.inr (.inr (.inr (.inr (.inr (.inl ⟨rfl, _, rfl⟩)))))))
  | sbStatus d => cases h; exact .inl ⟨rfl, rfl⟩
  | lbStatus d => cases h; exact .inr (.inr (.inr (.inr (.inr (.inr (.inr (.inl ⟨rfl, _, rfl⟩)))))))
  | sbBa d => cases h; exact .inr (.inr (.inr (.inr (.inr (.inl ⟨d, rfl, rfl⟩)))))
  | lbBa d =>
    simp only [exec, execLbBa] at h
    split at h <;> cases h
    exact .inr (.inr (.inr (.inr (.inr (.inr (.inr (.inl ⟨rfl, _, rfl⟩)))))))
  | sbBd d => cases h; exact .inr (.inr (.inr (.inr (.inr (.inr (.inl ⟨d, rfl, rfl⟩))))))
  | lbBd d =>
    simp only [exec, execLbBd] at h
    split at h <;> cases h
    exact .inr (.inr (.inr (.inr (.inr (.inr (.inr (.inl ⟨rfl, _, rfl⟩)))))))
  | sbRas a d => cases h; exact .inl ⟨rfl, rfl⟩
  | lbRas a d =>
    simp only [exec, execLbRas] at h
    split at h <;> cases h <;> exact .inr (.inr (.inr (.inr (.inr (.inr (.inr (.inl ⟨rfl, _, rfl⟩)))))))
  | cellMc nrm => cases h; exact .inr (.inr (.inr (.inr (.inr (.inr (.inr (.inr ⟨by simp [Instr.format], _, rfl⟩)))))))
  | cellHrNormal => cases h; exact .inr (.inr (.inr (.inr (.inr (.inr (.inr (.inr ⟨by simp [Instr.format], _, rfl⟩)))))))
  | cellHrInverse => cases h; exact .inr (.inr (.inr (.inr (.inr (.inr (.inr (.inr ⟨by simp [Instr.format], _, rfl⟩)))))))
  | hrpix0 => cases h; exact .inr (.inr (.inr (.inr (.inr (.inr (.inr (.inr ⟨by simp [Instr.format], _, rfl⟩)))))))
  | hrpix1 => cases h; exact .inr (.inr (.inr (.inr (.inr (.inr (.inr (.inr ⟨by simp [Instr.format], _, rfl⟩)))))))
  | mcpix00 => cases h; exact .inr (.inr (.inr (.inr (.inr (.inr (.inr (.inr ⟨by simp [Instr.format], _, rfl⟩)))))))
  | mcpix01 => cases h; exact .inr (.inr (.inr (.inr (.inr (.inr (.inr (.inr ⟨by simp [Instr.format], _, rfl⟩)))))))
  | mcpix10 => cases h; exact .inr (.inr (.inr (.inr (.inr (.inr (.inr (.inr ⟨by simp [Instr.format], _, rfl⟩)))))))
  | mcpix11 => cases h; exact .inr (.inr (.inr (.inr (.inr (.inr (.inr (.inr ⟨by simp [Instr.format], _, rfl⟩)))))))

/-- A transaction word decodes to a well-formed host operation. -/
theorem decodeHbus_wf (w : HbusWord) : (decodeHbus w).wf = true ∧ (decodeHbus w).format = .hbus := by
  rcases decodeHbus_cases w with ⟨_, e⟩ | ⟨_, e⟩ <;> rw [e]
  · rcases decodeWrite_cases (hbusA w) (hbusD w) with ⟨h, e⟩ | ⟨h, e⟩ | ⟨h, e⟩ | ⟨h, e⟩ | ⟨h, e⟩ | ⟨h, e⟩ | ⟨h, e⟩ <;>
      rw [e]
    all_goals first
      | exact ⟨h, rfl⟩
      | exact ⟨rfl, rfl⟩
      | skip
    rcases decodeCommand_cases (hbusD w) with ⟨h, e⟩ | ⟨h, e⟩ | ⟨h, e⟩ | ⟨h, e⟩ <;> rw [e]
    all_goals first
      | exact ⟨h, rfl⟩
      | exact ⟨rfl, rfl⟩
  · rcases decodeRead_cases (hbusA w) (hbusD w) with ⟨h, e⟩ | ⟨h, e⟩ | ⟨h, e⟩ | ⟨h, e⟩ | ⟨h, e⟩ | ⟨h, e⟩ | ⟨h, e⟩ <;>
      rw [e]
    all_goals first
      | exact ⟨h, rfl⟩
      | exact ⟨rfl, rfl⟩

/-- A read transaction decodes to a read. -/
theorem decodeRead_isRead (a : HostAddr) (d : Byte) : isRead (decodeRead a d) = true := by
  rcases decodeRead_cases a d with ⟨_, e⟩ | ⟨_, e⟩ | ⟨_, e⟩ | ⟨_, e⟩ | ⟨_, e⟩ | ⟨_, e⟩ | ⟨_, e⟩ <;> rw [e] <;> rfl

/-- A read that answers a next state changes the returned byte alone (20_memory.md R69). -/
theorem exec_read_next {i : Instr} {s t : State} (hr : isRead i = true) (h : exec i s = .next t) : ∃ b, t = s.setRdata b := by
  rcases exec_next_cases h with ⟨hi, e⟩ | ⟨hc, _⟩ | ⟨a, d, rfl, _⟩ | ⟨rfl, _⟩ | ⟨rfl, _⟩ | ⟨d, rfl, _⟩ | ⟨d, rfl, _⟩ | ⟨_, hb⟩ | ⟨hf, _⟩
  · exact ⟨s.rdata, e⟩
  · rcases hc with ⟨a, d, rfl, _⟩ | ⟨rfl, _⟩ | ⟨d, rfl⟩ <;> simp [isRead, Instr.op] at hr
  · simp [isRead, Instr.op] at hr
  · simp [isRead, Instr.op] at hr
  · simp [isRead, Instr.op] at hr
  · simp [isRead, Instr.op] at hr
  · simp [isRead, Instr.op] at hr
  · exact hb
  · cases i <;> simp [isRead, Instr.op, Instr.format] at hr hf

/-- Everything a turn of the host can do when it answers a next state. -/
theorem hostTurn_next_cases {s t : State} (h : hostTurn s = .next t) :
    (s.host = [] ∧ t = s)
      ∨ (∃ w rest, s.host = .txn w :: rest ∧ exec (decodeHbus w) (s.setHost rest) = .next t)
      ∨ (∃ a m v rest b, s.host = .poll a m v :: rest ∧ t = (s.setRdata b).setHost (if b &&& m = v then rest else s.host)) := by
  unfold hostTurn at h
  split at h
  · cases h
    exact .inl ⟨‹_›, rfl⟩
  · exact .inr (.inl ⟨_, _, ‹_›, h⟩)
  · rename_i a m v rest hs
    obtain ⟨u, hu, h2⟩ := andThen_eq_next h
    obtain ⟨b, rfl⟩ := exec_read_next (decodeRead_isRead a 0#8) (by simpa [hostTransaction] using hu)
    refine .inr (.inr ⟨a, m, v, rest, b, hs, ?_⟩)
    by_cases hc : b &&& m = v
    · rw [State.setRdata_rdata, if_pos hc] at h2
      cases h2
      rw [if_pos hc]
    · rw [State.setRdata_rdata, if_neg hc] at h2
      cases h2
      rw [if_neg hc]
      rfl

/-- Everything a step can do when it answers a next state. -/
theorem step_next_cases {s t : State} (h : step s = .next t) :
    (s.nextTurn = .host ∧ hostTurn s.popTurn = .next t)
      ∨ (s.nextTurn = .engine ∧ engineTurn s.popTurn = .next t)
      ∨ (s.nextTurn = .rst ∧ t = s.popTurn.takeReset) := by
  unfold step at h
  cases e : s.nextTurn <;> rw [e] at h
  · exact .inl ⟨rfl, h⟩
  · exact .inr (.inl ⟨rfl, h⟩)
  · cases h
    exact .inr (.inr ⟨rfl, rfl⟩)

/-- When a turn of the engine answers a next state, it passed or it decoded a cell. -/
theorem engineTurn_next_cases {s t : State} (h : engineTurn s = .next t) :
    (engineEnabled s = false ∧ t = s)
      ∨ (engineEnabled s = true ∧ ∃ u, t = u.finishCell
          ∧ Painted s u (InCell (cellCol s.c) (cellRow s.c))
              (cellPicture s.operatedRegs s.payByte (cellCol s.c) (cellRow s.c))) := by
  unfold engineTurn at h
  split at h
  · obtain ⟨u, hu, hp⟩ := cellStep_paints s
    rw [hu] at h
    cases h
    exact .inr ⟨‹_›, u, rfl, hp⟩
  · cases h
    exact .inl ⟨eq_false_of_ne_true ‹_›, rfl⟩

end Sys2Proof.Machine
end

