-- ==== Sys2Proof/Laws/HostProgram.lean ====
section
/-! SUPPORT. What the lines of the host program language expand to, said once. -/

namespace Sys2Proof.Machine

/-- A byte store in range is its transaction (30_encoding.md R106, R107). -/
theorem asmSb_eq {addr imm : Nat} (ha : addr ≤ 0xFFFFF) (hi : imm ≤ 255) :
    asmSb addr imm = some (.txn (hbusWord 1#1 (BitVec.ofNat 20 addr) (BitVec.ofNat 8 imm))) := by
  rw [asmSb, if_pos ha, if_pos hi]

/-- A payload store in range is its transaction (R108). -/
theorem asmWpay_eq {o v : Nat} (ho : o ≤ 0xF77) (hv : v ≤ 255) :
    asmWpay o v = some (.txn (hbusWord 1#1 (BitVec.ofNat 20 o) (BitVec.ofNat 8 v))) := by
  rw [asmWpay, if_pos ho, asmSb_eq (by omega) hv]

/-- Lines without an error are kept, in order. -/
theorem allLines_map_some (l : List HostLine) : allLines (l.map some) = some l := by
  induction l with
  | nil => rfl
  | cons a l ih => simp only [List.map_cons, allLines, ih]

/-- A list has an expansion exactly when none of its lines is an error. -/
theorem allLines_eq_some {l : List (Option HostLine)} {r : List HostLine} : allLines l = some r ↔ l = r.map some := by
  constructor
  · induction l generalizing r with
    | nil => rintro ⟨⟩; rfl
    | cons a l ih =>
      cases a with
      | none => intro h; cases h
      | some x =>
        intro h
        cases e : allLines l with
        | none => simp [allLines, e] at h
        | some r' =>
          simp only [allLines, e, Option.some.injEq] at h
          rw [← h, List.map_cons, ← ih e]
  · rintro rfl
    exact allLines_map_some r

end Sys2Proof.Machine
end

