-- ==== Sys2Proof/Laws/PerInstr.lean ====
section
/-! SUPPORT. Statements for all instructions, one lemma per constructor. -/

namespace Sys2Proof.Laws

/-- The encoder gives a word of the instruction's own format (30_encoding.md R90). -/
def EncodesInItsFormat.Statement (i : Instr) : Prop := (encode i).format = i.format

theorem EncodesInItsFormat.sbPay (a : HostAddr) (d : Byte) : EncodesInItsFormat.Statement (.sbPay a d) := rfl
theorem EncodesInItsFormat.lbPay (a : HostAddr) (d : Byte) : EncodesInItsFormat.Statement (.lbPay a d) := rfl
theorem EncodesInItsFormat.sbRsv (a : HostAddr) (d : Byte) : EncodesInItsFormat.Statement (.sbRsv a d) := rfl
theorem EncodesInItsFormat.lbRsv (a : HostAddr) (d : Byte) : EncodesInItsFormat.Statement (.lbRsv a d) := rfl
theorem EncodesInItsFormat.cmdNop : EncodesInItsFormat.Statement (.cmdNop) := rfl
theorem EncodesInItsFormat.cmdStart : EncodesInItsFormat.Statement (.cmdStart) := rfl
theorem EncodesInItsFormat.cmdAck : EncodesInItsFormat.Statement (.cmdAck) := rfl
theorem EncodesInItsFormat.cmdRsv (d : Byte) : EncodesInItsFormat.Statement (.cmdRsv d) := rfl
theorem EncodesInItsFormat.lbCmd (d : Byte) : EncodesInItsFormat.Statement (.lbCmd d) := rfl
theorem EncodesInItsFormat.sbStatus (d : Byte) : EncodesInItsFormat.Statement (.sbStatus d) := rfl
theorem EncodesInItsFormat.lbStatus (d : Byte) : EncodesInItsFormat.Statement (.lbStatus d) := rfl
theorem EncodesInItsFormat.sbBa (d : Byte) : EncodesInItsFormat.Statement (.sbBa d) := rfl
theorem EncodesInItsFormat.lbBa (d : Byte) : EncodesInItsFormat.Statement (.lbBa d) := rfl
theorem EncodesInItsFormat.sbBd (d : Byte) : EncodesInItsFormat.Statement (.sbBd d) := rfl
theorem EncodesInItsFormat.lbBd (d : Byte) : EncodesInItsFormat.Statement (.lbBd d) := rfl
theorem EncodesInItsFormat.sbRas (a : HostAddr) (d : Byte) : EncodesInItsFormat.Statement (.sbRas a d) := rfl
theorem EncodesInItsFormat.lbRas (a : HostAddr) (d : Byte) : EncodesInItsFormat.Statement (.lbRas a d) := rfl
theorem EncodesInItsFormat.cellMc (nrm : BitVec 1) : EncodesInItsFormat.Statement (.cellMc nrm) := rfl
theorem EncodesInItsFormat.cellHrNormal : EncodesInItsFormat.Statement (.cellHrNormal) := rfl
theorem EncodesInItsFormat.cellHrInverse : EncodesInItsFormat.Statement (.cellHrInverse) := rfl
theorem EncodesInItsFormat.hrpix0 : EncodesInItsFormat.Statement (.hrpix0) := rfl
theorem EncodesInItsFormat.hrpix1 : EncodesInItsFormat.Statement (.hrpix1) := rfl
theorem EncodesInItsFormat.mcpix00 : EncodesInItsFormat.Statement (.mcpix00) := rfl
theorem EncodesInItsFormat.mcpix01 : EncodesInItsFormat.Statement (.mcpix01) := rfl
theorem EncodesInItsFormat.mcpix10 : EncodesInItsFormat.Statement (.mcpix10) := rfl
theorem EncodesInItsFormat.mcpix11 : EncodesInItsFormat.Statement (.mcpix11) := rfl

end Sys2Proof.Laws
end

