-- ==== Sys2Proof/Tests/Slice0.lean ====
section
/-! SUPPORT. The model's own tests, with expected results from 95_test_vectors.md and the encodings of 30_encoding.md,
and a witness for the hypotheses of each statement. -/

namespace Sys2Proof.Tests

open Sys2Proof.Machine

/-! ### Small states -/

/-- The first `n` addresses listed with 0. -/
def block (n : Nat) : Memory := (List.range' 0 n).map fun o => (o, 0x00#8)

/-- After reset with every input written (P1's payload, P3's control bytes). -/
def ready : State := { State.reset with pay := block 3960, wBA := true, wBD := true, ba := 0x1A#8, bd := 0x30#8 }

/-- A run of `ready` as an accepted START leaves it, at its first cell. -/
def running : State :=
  { ready with lba := 0x1A#8, lbd := 0x30#8, inv := false, slot3 := 0x52C6D4#24, busy := true }

/-- A completed run: `STATUS = 0x06`, a raster of zeros. -/
def finished : State := { ready with ras := block 92160, done := true, rv := true }

/-- A small run at cell `c` with the colour-map byte `cm` in place (L2.3's columns). -/
def cellState (lba lbd cm c : Byte) : State :=
  { State.reset with
    pay := [(cmOff (cellCol c) (cellRow c), cm)], lba := lba, lbd := lbd, inv := fieldNRM lba == 0#1,
    slot3 := pal (fieldC3 lbd), c := c, busy := true }

/-- A run at its last cell, with that cell's bitmap bytes written. -/
def lastCell : State := (cellState 0x1A#8 0x30#8 0x50#8 239#8).mapBitmap fun t o => t.payFilled o

/-- The next state, when there is one, meets a test. -/
def nextMeets (r : Result) (p : State → Bool) : Bool :=
  match r with
  | .next t => p t
  | _ => false

/-- The result is this fault. -/
def faultsWith (r : Result) (e : Fault) : Bool :=
  match r with
  | .fault e' => e == e'
  | _ => false

/-- The state with one line left in the host's program. -/
def withLine (s : State) (w : HbusWord) : State := { s with host := [.txn w] }

/-- The slots after CELL_SETUP and the cell operation it selects. -/
def slotsAre (s : State) (a b c d : BitVec 4) : Bool :=
  nextMeets (cellOperation s.cellSetup) fun t =>
    t.cell.s0 == pal a && t.cell.s1 == pal b && t.cell.s2 == pal c && t.cell.s3 == pal d

/-- The colours of row 0 of cell (0, 0), as palette indexes, for a bitmap byte. -/
def rowIs (lba cm bm : Byte) (row : List (BitVec 4)) : Bool :=
  let s := cellState lba 0x30#8 cm 0#8
  nextMeets (andThen (cellOperation { s with pay := (0, bm) :: s.pay }.cellSetup) (scanline 0 0 0)) fun t =>
    (List.range 8).map t.rasPixel == row.map pal

/-! ### Well-formedness: an ill-formed term for each check -/

theorem test_wf_refuses_payload_address_past_the_payload :
    (Instr.sbPay 0x00F78#20 0#8).wf = false ∧ (Instr.lbPay 0x01000#20 0#8).wf = false := by decide

theorem test_wf_refuses_reserved_address_in_no_reserved_range :
    (Instr.sbRsv 0x01000#20 0#8).wf = false ∧ (Instr.lbRsv 0x00F77#20 0#8).wf = false
      ∧ (Instr.sbRsv 0x20000#20 0#8).wf = false ∧ (Instr.lbRsv 0x367FF#20 0#8).wf = false := by decide

theorem test_wf_refuses_raster_address_outside_the_window :
    (Instr.sbRas 0x1FFFF#20 0#8).wf = false ∧ (Instr.lbRas 0x36800#20 0#8).wf = false := by decide

theorem test_wf_refuses_a_defined_command_code :
    (Instr.cmdRsv 0x00#8).wf = false ∧ (Instr.cmdRsv 0x02#8).wf = false := by decide

/-! ### Decoding: every constructor's word, from R101 and R103 (and L2.5), R96, R98, R99 -/

/-- `W = 1`, `A = 0x01002`, `D = 0x1A`, bit by bit. -/
theorem test_decode_word_bit_by_bit :
    decode (.hbus 0b10000000100000000001000011010#29) = .sbBa 0x1A#8 := by decide

theorem test_decode_payload_and_reserved :
    decode (.hbus 0x100F7700#29) = .sbPay 0x00F77#20 0x00#8 ∧ decode (.hbus 0x00000000#29) = .lbPay 0x00000#20 0x00#8
      ∧ decode (.hbus 0x100F7800#29) = .sbRsv 0x00F78#20 0x00#8 ∧ decode (.hbus 0x000FFF00#29) = .lbRsv 0x00FFF#20 0x00#8
      ∧ decode (.hbus 0x11FFFF00#29) = .sbRsv 0x1FFFF#20 0x00#8 ∧ decode (.hbus 0x0FFFFF00#29) = .lbRsv 0xFFFFF#20 0x00#8 := by
  decide

theorem test_decode_commands :
    decode (.hbus 0x10100000#29) = .cmdNop ∧ decode (.hbus 0x10100001#29) = .cmdStart
      ∧ decode (.hbus 0x10100002#29) = .cmdAck ∧ decode (.hbus 0x10100003#29) = .cmdRsv 0x03#8
      ∧ decode (.hbus 0x00100055#29) = .lbCmd 0x55#8 := by decide

theorem test_decode_registers :
    decode (.hbus 0x101001FF#29) = .sbStatus 0xFF#8 ∧ decode (.hbus 0x00100100#29) = .lbStatus 0x00#8
      ∧ decode (.hbus 0x1010021A#29) = .sbBa 0x1A#8 ∧ decode (.hbus 0x00100200#29) = .lbBa 0x00#8
      ∧ decode (.hbus 0x10100330#29) = .sbBd 0x30#8 ∧ decode (.hbus 0x00100300#29) = .lbBd 0x00#8 := by decide

theorem test_decode_raster_window :
    decode (.hbus 0x1367FF00#29) = .sbRas 0x367FF#20 0x00#8 ∧ decode (.hbus 0x02000000#29) = .lbRas 0x20000#20 0x00#8
      ∧ decode (.hbus 0x03680000#29) = .lbRsv 0x36800#20 0x00#8 := by decide

theorem test_decode_data_formats :
    decode (.cellsel 0b10#2) = .cellMc 0#1 ∧ decode (.cellsel 0b11#2) = .cellMc 1#1
      ∧ decode (.cellsel 0b01#2) = .cellHrNormal ∧ decode (.cellsel 0b00#2) = .cellHrInverse
      ∧ decode (.hrpix 0#1) = .hrpix0 ∧ decode (.hrpix 1#1) = .hrpix1
      ∧ decode (.mcpix 0b00#2) = .mcpix00 ∧ decode (.mcpix 0b01#2) = .mcpix01
      ∧ decode (.mcpix 0b10#2) = .mcpix10 ∧ decode (.mcpix 0b11#2) = .mcpix11 := by decide

theorem test_decode_rejects_by_name :
    readWord .hbus 0x20000000 = .error .bitsBeyondFormat ∧ readWord .cellsel 4 = .error .bitsBeyondFormat
      ∧ readWord .hrpix 2 = .error .bitsBeyondFormat ∧ readWord .mcpix 4 = .error .bitsBeyondFormat
      ∧ readTableWord 16 0 = .error .noSuchWidth := ⟨rfl, rfl, rfl, rfl, rfl⟩

theorem test_decodeTableWord :
    decodeTableWord 32 0x10100001 = some .cmdStart ∧ decodeTableWord 8 1 = some .cellHrNormal
      ∧ decodeTableWord 1 1 = some .hrpix1 ∧ decodeTableWord 32 0x20000000 = none ∧ decodeTableWord 8 4 = none := by decide

/-! ### Layouts (L2.2) -/

theorem test_bmOff : bmOff 5 2 7 = 999 ∧ bmOff 19 11 15 = 3839 := by decide

theorem test_cmOff : cmOff 5 2 = 3862 ∧ cmOff 19 11 = 3959 ∧ cmOff 0 1 = 3850 := by decide

theorem test_raster_address : 0x20000 + rasOff (pixelIndex 159 191) 2 = 0x367FF ∧ rasOff (pixelIndex 0 1) 0 = 0x1E0 := by decide

/-- L2.3: with colour-map byte 0x5D the even column gets nibble 0xD, the odd one 0x5. -/
theorem test_nibbleSelect : nibbleSelect 0x5D#8 0 = 0xD#4 ∧ nibbleSelect 0x5D#8 1 = 0x5#4 := by decide

/-! ### Cell operations (L2.3) -/

theorem test_cellHrNormal : slotsAre (cellState 0x1A#8 0x30#8 0x05#8 0#8) 1 5 2 3 = true := by decide

theorem test_cellHrInverse :
    slotsAre (cellState 0x12#8 0x30#8 0x05#8 0#8) 5 1 2 3 = true
      ∧ slotsAre (cellState 0xF7#8 0x8F#8 0x70#8 239#8) 7 15 7 8 = true := by decide

theorem test_cellMc :
    slotsAre (cellState 0x12#8 0x30#8 0x0D#8 0#8) 1 2 5 3 = true
      ∧ slotsAre (cellState 0x08#8 0xE0#8 0x90#8 1#8) 0 0 1 14 = true := by decide

/-! ### Pixel codes (L2.4, W = 1, G = 5, R = 2, C = 3) -/

theorem test_hrpix : rowIs 0x1A#8 0x05#8 0xA5#8 [5, 1, 5, 1, 1, 5, 1, 5] = true := by decide +kernel

theorem test_hrpix_inverse : rowIs 0x12#8 0x05#8 0xA5#8 [1, 5, 1, 5, 5, 1, 5, 1] = true := by decide +kernel

theorem test_mcpix : rowIs 0x1A#8 0x0D#8 0x1B#8 [1, 1, 2, 2, 5, 5, 3, 3] = true := by decide +kernel

theorem test_mcpix_high_bits : rowIs 0x12#8 0x0D#8 0x40#8 [2, 2, 1, 1, 1, 1, 1, 1] = true := by decide +kernel

/-! ### Host operations (L2.5) -/

/-- `0x01`, `sb 0x00000, 0xFF`: 0x09 and `PAY[0]` unchanged. -/
theorem test_sbPay_while_busy :
    nextMeets (exec (.sbPay 0x00000#20 0xFF#8) (cellState 0x1A#8 0x30#8 0x05#8 0#8)) fun t =>
      t.status == 0x09#8 && t.wPAY 0 == false := by decide

/-- R191's example, read back as in R192's. -/
theorem test_sbPay_then_lbPay :
    nextMeets (andThen (exec (.sbPay 0x00F00#20 0x5D#8) State.reset) (exec (.lbPay 0x00F00#20 0x00#8))) fun t =>
      t.rdata == 0x5D#8 := by decide

theorem test_lbPay_unwritten : faultsWith (exec (.lbPay 0x00000#20 0x00#8) State.reset) .unwrittenRead = true := by decide

theorem test_start_unwritten : faultsWith (exec .cmdStart State.reset) .unwrittenInput = true := by decide

/-- `0x01`, `start`: 0x09. -/
theorem test_start_while_busy :
    nextMeets (exec .cmdStart (cellState 0x1A#8 0x30#8 0x05#8 0#8)) fun t => t.status == 0x09#8 := by decide

/-- `0x0E`, `ack`: 0x04. -/
theorem test_ack :
    nextMeets (exec .cmdAck { State.reset with cmderr := true, rv := true, done := true }) fun t => t.status == 0x04#8 := by
  decide

/-- `0x06`, `sb 0x01000, 0x07`: 0x0E. -/
theorem test_cmdRsv :
    nextMeets (exec (.cmdRsv 0x07#8) { State.reset with rv := true, done := true }) fun t => t.status == 0x0E#8 := by decide

/-- `0x06` with the four ignored writes: 0x06. -/
theorem test_ignored_writes :
    nextMeets (andThen (exec .cmdNop { State.reset with rv := true, done := true }) fun a =>
        andThen (exec (.sbStatus 0xFF#8) a) fun b =>
          andThen (exec (.sbRas 0x20000#20 0x12#8) b) (exec (.sbRsv 0x00F78#20 0x01#8)))
      fun t => t.status == 0x06#8 := by decide

theorem test_lbCmd_and_lbRsv :
    nextMeets (exec (.lbCmd 0x55#8) { State.reset with rdata := 0xAA#8 }) (fun t => t.rdata == 0x00#8)
      ∧ nextMeets (exec (.lbRsv 0x01004#20 0x00#8) { State.reset with rdata := 0xAA#8 }) (fun t => t.rdata == 0x00#8) := by
  decide

/-- `0x01`, `wba 0x12`: `BA = 0x12`, `LBA` unchanged. -/
theorem test_sbBa :
    nextMeets (exec (.sbBa 0x12#8) (cellState 0x1A#8 0x30#8 0x05#8 0#8)) fun t =>
      t.ba == 0x12#8 && t.lba == 0x1A#8 && t.status == 0x01#8 := by decide

/-- `lb 0x01003` after `wbd 0x37` gives 0x37. -/
theorem test_sbBd_then_lbBd :
    nextMeets (andThen (exec (.sbBd 0x37#8) State.reset) (exec (.lbBd 0x00#8))) fun t => t.rdata == 0x37#8 := by decide

theorem test_lbBa_unwritten : faultsWith (exec (.lbBa 0x00#8) State.reset) .unwrittenRead = true := by decide

theorem test_lbStatus :
    nextMeets (exec (.lbStatus 0x00#8) { State.reset with done := true, rv := true }) fun t => t.rdata == 0x06#8 := by decide

/-- R205's example: pixel (1, 0) Red reads 0x94, 0x17, 0x01; with `RV = 0` it reads 0x00. -/
theorem test_lbRas :
    (nextMeets (exec (.lbRas 0x20004#20 0x00#8) { State.reset.pixelWrite 1 0 0x941701#24 with rv := true }) fun t =>
        t.rdata == 0x17#8)
      ∧ nextMeets (exec (.lbRas 0x20004#20 0x00#8) (State.reset.pixelWrite 1 0 0x941701#24)) fun t => t.rdata == 0x00#8 := by
  decide

/-! ### Turns, runs and the fetch -/

/-- `0x09` at the last cell: COMPLETE gives 0x0E. -/
theorem test_complete :
    nextMeets (step { lastCell with cmderr := true }) fun t => t.status == 0x0E#8 := by decide +kernel

/-- `0x01`, `rst`: 0x00. -/
theorem test_rst :
    nextMeets (step { cellState 0x1A#8 0x30#8 0x05#8 7#8 with sched := [.rst] }) fun t =>
      t.status == 0x00#8 && t.wPAY 3840 == false := by decide

/-- `wait` is a `poll` whose line stays while `STATUS & 3` is not 2 (R108). -/
theorem test_wait :
    AsmLine.expand .wait = some [.poll 0x01001#20 0x03#8 0x02#8]
      ∧ nextMeets (step { State.reset with host := [.poll 0x01001#20 0x03#8 0x02#8] }) (fun t => t.host.length == 1)
      ∧ nextMeets (step { State.reset with host := [.poll 0x01001#20 0x03#8 0x02#8], done := true }) fun t =>
          t.host.length == 0 := by decide

/-- P3's `rdpx 8, 0`. -/
theorem test_rdpx :
    AsmLine.expand (.rdpx 8 0) = some [.txn 0x02001800#29, .txn 0x02001900#29, .txn 0x02001A00#29] := by decide

/-- R107: out of range is an assembly error. -/
theorem test_assembly_errors :
    AsmLine.expand (.sb 0x100000 0) = none ∧ AsmLine.expand (.sb 0 256) = none ∧ AsmLine.expand (.wpay 0xF78 0) = none
      ∧ AsmLine.expand (.load []) = none := by decide

/-- P5b: `sb 0x01000, 0xFF` as the first step after reset. -/
theorem test_fetch_runs_a_transaction :
    nextMeets (step (State.reset.withFetchWord 32 0x101000FF)) fun t => t.status == 0x08#8 := by decide

/-- A placed cell key runs one cell. -/
theorem test_fetch_runs_a_cell :
    nextMeets (step (State.reset.withFetchWord 8 2)) fun t => t.c == 1#8 && t.status == 0x01#8 := by decide +kernel

/-! ### Facts about the small states -/

theorem block_wf (n : Nat) : (block n).wf := by
  unfold block Memory.wf
  rw [List.pairwise_map]
  exact List.pairwise_lt_range' (step := 1)

theorem block_below (n : Nat) : (block n).below n := by
  intro p hp
  simp only [block, List.mem_map, List.mem_range'_1] at hp
  obtain ⟨o, ho, rfl⟩ := hp
  simpa using ho.2

theorem block_read? (n x : Nat) (h : x < n) : (block n).read? x = some 0x00#8 :=
  Memory.read?_block 0 n (fun _ => 0x00#8) x (Nat.zero_le x) (by omega)

theorem ready_full : ∀ o, o < 3960 → ready.wPAY o = true := fun o h => by
  have e : ready.pay.read? o = some 0x00#8 := block_read? 3960 o h
  simp only [State.wPAY, e, Option.isSome_some]

theorem ready_start : exec .cmdStart ready = .next ready.frameSetup.beginRun := by
  have h : ready.inputsWritten = true := (State.inputsWritten_iff ready).mpr ⟨rfl, rfl, ready_full⟩
  have hb : ready.busy = false := rfl
  simp only [exec, execCmdStart, hb, h, Bool.false_eq_true, if_false, if_true]

theorem running_inv : running.Inv where
  payWf := block_wf 3960
  payBelow := block_below 3960
  rasWf := List.Pairwise.nil
  rasBelow := fun p hp => by cases hp
  notBusyDone := fun h => by cases h.2
  busyRv := fun _ => rfl
  doneRv := fun h => by cases h
  busyC := fun _ => by decide
  busyInv := fun _ => by decide
  busySlot3 := fun _ => by decide
  busyInputs := fun _ => ⟨rfl, rfl, ready_full⟩
  busyCells := fun _ x y k _ _ _ h => absurd h (Nat.not_lt_zero _)
  rvFull := fun h => by cases h
  cellIdle := rfl

theorem finished_inv : finished.Inv where
  payWf := block_wf 3960
  payBelow := block_below 3960
  rasWf := block_wf 92160
  rasBelow := block_below 92160
  notBusyDone := fun h => by cases h.1
  busyRv := fun h => by cases h
  doneRv := fun _ => rfl
  busyC := fun h => by cases h
  busyInv := fun h => by cases h
  busySlot3 := fun h => by cases h
  busyInputs := fun h => by cases h
  busyCells := fun h => by cases h
  rvFull := fun _ q hq => by rw [show finished.ras.read? q = some 0x00#8 from block_read? 92160 q hq]; rfl
  cellIdle := rfl

/-! ### Witnesses: for each statement with hypotheses, states and operands that meet them -/

theorem witness_DecodeOfEncodeIsTheInstruction :
    (Instr.sbPay 0x00F77#20 0xFF#8).wf = true ∧ (Instr.lbRsv 0x00F78#20 0xFF#8).wf = true
      ∧ (Instr.sbRsv 0x01004#20 0x00#8).wf = true ∧ (Instr.lbRsv 0xFFFFF#20 0x00#8).wf = true
      ∧ (Instr.lbRas 0x20000#20 0x00#8).wf = true ∧ (Instr.sbRas 0x367FF#20 0x00#8).wf = true
      ∧ (Instr.cmdRsv 0x03#8).wf = true ∧ (Instr.cellMc 1#1).wf = true := by decide

theorem witness_HostTurnRunsTheDecodedTransaction :
    (withLine State.reset 0x1010021A#29).nextTurn = .host
      ∧ (withLine State.reset 0x1010021A#29).host = .txn 0x1010021A#29 :: []
      ∧ (Instr.sbBa 0x1A#8).wf = true ∧ encode (.sbBa 0x1A#8) = .hbus 0x1010021A#29 := by decide

theorem witness_EngineTurnRunsTheDecodedCellOperation :
    lastCell.nextTurn = .engine ∧ lastCell.busy = true ∧ lastCell.c.toNat = 239 := by decide

/-- A `STATUS` poll, once with a matching byte and once without. -/
theorem witness_PollRepeatsItsReadUntilTheByteMatches :
    let s := { State.reset with host := [.poll 0x01001#20 0x03#8 0x02#8] }
    let s' := { State.reset with host := [.poll 0x01001#20 0x03#8 0x02#8], done := true }
    (s.nextTurn = .host
        ∧ nextMeets (exec (decode (.hbus (hbusWord 0#1 0x01001#20 0x00#8))) s) (fun t => t.rdata &&& 0x03#8 != 0x02#8))
      ∧ s'.nextTurn = .host
      ∧ nextMeets (exec (decode (.hbus (hbusWord 0#1 0x01001#20 0x00#8))) s') fun t => t.rdata &&& 0x03#8 == 0x02#8 := by
  decide

theorem witness_SbPayStoresTheByteOrIsRejected :
    (0x00F77#20 : HostAddr).toNat = 0xF77 ∧ lastCell.busy = true ∧ State.reset.busy = false := by decide

theorem witness_LbPayReturnsTheByteOrFaults :
    (0x00F77#20 : HostAddr).toNat = 0xF77 ∧ State.reset.wPAY 0xF77 = false ∧ lastCell.pay.read? 0xF77 = some 0x50#8 := by
  decide

/-- The boundary addresses of the raster window and of the three reserved ranges. -/
theorem witness_IgnoredWritesChangeNothing :
    inRaster 0x20000#20 = true ∧ inRaster 0x367FF#20 = true ∧ inReserved 0x00F78#20 = true ∧ inReserved 0x00FFF#20 = true
      ∧ inReserved 0x01004#20 = true ∧ inReserved 0x1FFFF#20 = true ∧ inReserved 0x36800#20 = true
      ∧ inReserved 0xFFFFF#20 = true := by decide

theorem witness_CommandAndReservedAddressesReadZero : inReserved 0x00F78#20 = true ∧ inReserved 0xFFFFF#20 = true := by
  decide

/-- Rejected, faulting (each input in turn), accepted. -/
theorem witness_StartBeginsARunOrIsRejectedOrFaults :
    lastCell.busy = true ∧ (State.reset.busy = false ∧ State.reset.wBA = false)
      ∧ ({ ready with wBD := false } : State).wBD = false
      ∧ ({ State.reset with wBA := true, wBD := true } : State).wPAY 3959 = false
      ∧ ready.busy = false ∧ ready.wBA = true ∧ ready.wBD = true ∧ ∀ o, o < 3960 → ready.wPAY o = true :=
  ⟨by decide, by decide, rfl, by decide, rfl, rfl, rfl, ready_full⟩

theorem witness_ReservedCommandSetsCmderrAlone : 3 ≤ (0x03#8 : Byte).toNat ∧ 3 ≤ (0xFF#8 : Byte).toNat := by decide

theorem witness_ControlRegisterReadsReturnTheRegisterOrFault :
    ready.wBA = true ∧ State.reset.wBA = false ∧ ready.wBD = true ∧ State.reset.wBD = false := ⟨rfl, rfl, rfl, rfl⟩

/-- The last byte of the window, and a state of each `RV`. -/
theorem witness_LbRasReturnsAComponentWhenTheRasterIsValid :
    inRaster 0x367FF#20 = true ∧ State.reset.rv = false ∧ (0x367FF#20 : HostAddr).toNat = 0x20000 + 3 * 30719 + 2
      ∧ inRaster 0x20000#20 = true ∧ (0x20000#20 : HostAddr).toNat = 0x20000 + 3 * 0 + 0 ∧ finished.rv = true :=
  ⟨by decide, rfl, by decide, by decide, by decide, rfl⟩

theorem witness_RasterWindowDeliversTheBytesInOrder :
    inRaster 0x367FF#20 = true ∧ finished.rv = true
      ∧ finished.ras.read? ((0x367FF#20 : HostAddr).toNat - 0x20000) = some 0x00#8 :=
  ⟨by decide, rfl, block_read? 92160 _ (by decide)⟩

theorem witness_ReadsHaveNoSideEffect :
    ∃ t, exec (.lbStatus 0x00#8) finished = .next t
      ∧ Instr.lbStatus 0x00#8 ∈ [Instr.lbPay 0#20 0x00#8, .lbRsv 0#20 0x00#8, .lbCmd 0x00#8, .lbStatus 0x00#8, .lbBa 0x00#8,
          .lbBd 0x00#8, .lbRas 0#20 0x00#8] :=
  ⟨_, rfl, by decide⟩

/-- ACK in a run with `CMDERR = 1`. -/
theorem witness_HostLibertiesNeverHarmARun :
    nextMeets (exec .cmdAck { lastCell with cmderr := true }) (fun t => t.busy && !t.cmderr)
      ∧ nextMeets (exec (.sbBa 0x12#8) { lastCell with cmderr := true }) fun t => t.cmderr && t.lba == 0x1A#8 := by decide

theorem witness_CmderrBlocksNoOperation :
    State.reset.cmderr = false ∧ nextMeets (exec (.lbStatus 0x00#8) State.reset) (fun t => t.rdata == 0x00#8)
      ∧ faultsWith (exec .cmdStart State.reset) .unwrittenInput = true := by decide

/-- A multicolor, an inverse and a normal cell. -/
theorem witness_CellSetupComputesTheWorkingRegisters :
    (nibbleSelect ((cellState 0x12#8 0x30#8 0x0D#8 0#8).payByte 3840) 0).getLsbD 3 = true
      ∧ (nibbleSelect ((cellState 0x12#8 0x30#8 0x05#8 0#8).payByte 3840) 0).getLsbD 3 = false
      ∧ (cellState 0x12#8 0x30#8 0x05#8 0#8).inv = true ∧ (cellState 0x1A#8 0x30#8 0x05#8 0#8).inv = false := by decide

theorem witness_CellOperationAgreesWithSlotAdjust :
    (cellState 0x12#8 0x30#8 0x05#8 0#8).inv = !(0x12#8 : Byte).getLsbD 3
      ∧ (cellState 0x1A#8 0x30#8 0x05#8 0#8).inv = !(0x1A#8 : Byte).getLsbD 3 := by decide

/-- The last cell, with its last pixel. -/
theorem witness_CellStepDecodesOneCellAndNothingElse :
    lastCell.busy = true ∧ lastCell.c.toNat < 240 ∧ lastCell.inv = (!lastCell.lba.getLsbD 3)
      ∧ lastCell.slot3 = pal (lastCell.lbd.extractLsb' 4 4) ∧ 20 * (191 / 16) + 159 / 8 = lastCell.c.toNat := by decide

/-- `LBA` and `LBA` with `NRM` turned, on a multicolor cell. -/
theorem witness_InverseHasNoEffectOnMulticolorCells :
    let s := cellState 0x1A#8 0x30#8 0x0D#8 0#8
    (0x12#8 : Byte).extractLsb' 4 4 = s.lba.extractLsb' 4 4 ∧ (0x12#8 : Byte).extractLsb' 0 3 = s.lba.extractLsb' 0 3
      ∧ s.cellSetup.cell.mc = true := by decide

theorem witness_ARunDecodesTheInputsAtStart :
    ready.busy = false ∧ ready.wBA = true ∧ ready.wBD = true ∧ ∀ o, o < 3960 → ready.wPAY o = true :=
  ⟨rfl, rfl, rfl, ready_full⟩

/-- Two states that differ in the raster and the control registers. -/
theorem witness_TheRasterIsAFunctionOfTheInputs :
    let s := cellState 0x1A#8 0x30#8 0x05#8 0#8
    let s' := { s with ras := [(92159, 0xFF#8)], ba := 0x12#8 }
    (s.busy = true ∧ s'.busy = true ∧ s.c = 0#8 ∧ s'.c = 0#8)
      ∧ (s.pay = s'.pay ∧ s.lba = s'.lba ∧ s.lbd = s'.lbd ∧ s.inv = s'.inv ∧ s.slot3 = s'.slot3)
      ∧ s.ras.wf ∧ s'.ras.wf ∧ s.ras.below 92160 ∧ s'.ras.below 92160 := by decide

theorem witness_ARunEndsAfterItsRemainingCells :
    lastCell.sched = [] ∧ lastCell.busy = true ∧ lastCell.c.toNat < 240 ∧ 0 < 240 - lastCell.c.toNat := by decide

/-- An accepted START as a step of the machine. -/
theorem start_step : step (withLine ready 0x10100001#29)
    = .next { ready.frameSetup.beginRun with host := [], sched := [] } := by
  have h : ({ ready with host := [] } : State).inputsWritten = true :=
    (State.inputsWritten_iff _).mpr ⟨rfl, rfl, ready_full⟩
  show exec (decodeHbus 0x10100001#29) { ready with host := [] } = _
  rw [show decodeHbus 0x10100001#29 = .cmdStart by decide]
  simp only [exec, execCmdStart, h, if_true]
  rfl

/-- START, the last cell, a reset in a run, and a step that is none of them. -/
theorem witness_BusyIsWrittenByStartCompleteAndResetAlone :
    ((∃ t, step (withLine ready 0x10100001#29) = .next t) ∧ (withLine ready 0x10100001#29).acceptsStart)
      ∧ (nextMeets (step lastCell) (fun t => !t.busy) ∧ lastCell.completes)
      ∧ (nextMeets (step { lastCell with sched := [.rst] }) (fun t => !t.busy)
          ∧ ({ lastCell with sched := [.rst] } : State).nextTurn = .rst)
      ∧ nextMeets (step { withLine lastCell 0x10100000#29 with sched := [.host] }) (fun t => t.busy)
      ∧ ¬ ({ withLine lastCell 0x10100000#29 with sched := [.host] } : State).completes :=
  ⟨⟨⟨_, start_step⟩, ⟨rfl, _, _, rfl, by decide⟩, rfl⟩, ⟨by decide +kernel, rfl, rfl, by decide⟩, by decide, by decide,
    fun h => by cases h.1⟩

/-- COMPLETE, START and ACK with `DONE = 1`, and a step that is none of them. -/
theorem witness_DoneIsSetByCompleteAndClearedByStartAckAndReset :
    (nextMeets (step lastCell) (fun t => t.done && !t.busy) ∧ lastCell.completes)
      ∧ (withLine finished 0x10100001#29).acceptsStart
      ∧ (nextMeets (step (withLine { State.reset with done := true } 0x10100002#29)) (fun t => !t.done)
          ∧ (withLine { State.reset with done := true } 0x10100002#29).nextIs .cmdAck)
      ∧ nextMeets (step { State.reset with done := true }) fun t => t.done :=
  ⟨⟨by decide +kernel, rfl, rfl, by decide⟩, ⟨⟨rfl, _, _, rfl, by decide⟩, rfl⟩,
    ⟨by decide, rfl, _, _, rfl, by decide⟩, by decide⟩

/-- COMPLETE sets `RV`, a reset clears it, ACK leaves it. -/
theorem witness_RvIsSetByCompleteAndClearedByStartAndReset :
    (nextMeets (step lastCell) (fun t => t.rv) ∧ lastCell.completes)
      ∧ (withLine finished 0x10100001#29).acceptsStart
      ∧ nextMeets (step { State.reset with rv := true, sched := [.rst] }) (fun t => !t.rv)
      ∧ nextMeets (step (withLine { State.reset with rv := true } 0x10100002#29)) fun t => t.rv :=
  ⟨⟨by decide +kernel, rfl, rfl, by decide⟩, ⟨⟨rfl, _, _, rfl, by decide⟩, rfl⟩, by decide, by decide⟩

/-- The three rejections, ACK, a reset, and a step that is none of them. -/
theorem witness_CmderrIsSetByRejectionsAndClearedByAckOrReset :
    (nextMeets (step { withLine lastCell 0x10100001#29 with sched := [.host] }) (fun t => t.cmderr)
        ∧ ({ withLine lastCell 0x10100001#29 with sched := [.host] } : State).rejects)
      ∧ (nextMeets (step { withLine lastCell 0x100F7700#29 with sched := [.host] }) (fun t => t.cmderr)
          ∧ ({ withLine lastCell 0x100F7700#29 with sched := [.host] } : State).rejects)
      ∧ (nextMeets (step (withLine State.reset 0x10100003#29)) (fun t => t.cmderr)
          ∧ (withLine State.reset 0x10100003#29).rejects)
      ∧ (nextMeets (step (withLine { State.reset with cmderr := true } 0x10100002#29)) (fun t => !t.cmderr)
          ∧ (withLine { State.reset with cmderr := true } 0x10100002#29).nextIs .cmdAck)
      ∧ nextMeets (step { State.reset with cmderr := true, sched := [.rst] }) (fun t => !t.cmderr)
      ∧ nextMeets (step { State.reset with cmderr := true }) fun t => t.cmderr :=
  ⟨⟨by decide, .inl ⟨⟨rfl, _, _, rfl, by decide⟩, rfl⟩⟩,
    ⟨by decide, .inr (.inl ⟨0x00F77#20, 0x00#8, ⟨rfl, _, _, rfl, by decide⟩, rfl⟩)⟩,
    ⟨by decide, .inr (.inr ⟨0x03#8, rfl, _, _, rfl, by decide⟩)⟩,
    ⟨by decide, rfl, _, _, rfl, by decide⟩, by decide, by decide⟩

/-- An accepted SB_PAY, a cell of a run, and a control write in a run. -/
theorem witness_StorageChangesOnlyByItsOwner :
    nextMeets (step (withLine State.reset 0x100F7701#29)) (fun t => t.pay != State.reset.pay)
      ∧ nextMeets (step lastCell) (fun t => t.ras != lastCell.ras)
      ∧ nextMeets (step { withLine lastCell 0x10100212#29 with sched := [.host] }) (fun t => t.busy) :=
  ⟨by decide, by decide +kernel, by decide⟩

/-- Each model fault as a step, a `poll` among them. -/
theorem witness_StepsStopOnlyAtTheTwoModelFaults :
    faultsWith (step (withLine State.reset 0x10100001#29)) .unwrittenInput = true
      ∧ faultsWith (step (withLine State.reset 0x00000000#29)) .unwrittenRead = true
      ∧ faultsWith (step (withLine State.reset 0x00100200#29)) .unwrittenRead = true
      ∧ faultsWith (step { State.reset with host := [.poll 0x01003#20 0xFF#8 0x00#8] }) .unwrittenRead = true := by decide

/-- A reset in a run. -/
theorem witness_ResetClearsStatusAndWrittenMarks :
    ({ lastCell with sched := [.rst] } : State).nextTurn = .rst ∧ inRaster 0x20000#20 = true := by decide

/-- A run in progress that has the invariant and steps on. -/
theorem witness_EveryStepKeepsTheInvariant : running.Inv ∧ ∃ t, step running = .next t := by
  refine ⟨running_inv, ?_⟩
  obtain ⟨t, h⟩ := engineTurn_next running.popTurn
  exact ⟨t, h⟩

theorem witness_AValidRasterReadReturnsAWrittenByte : finished.Inv ∧ finished.rv = true ∧ inRaster 0x367FF#20 = true :=
  ⟨finished_inv, rfl, by decide⟩

theorem witness_PayloadOffsetsCoverTheirRegionsOnce :
    bmOff 19 11 15 = 3839 ∧ cmOff 19 11 = 3959 ∧ cmOff 0 0 = 3840 ∧ cmOff 18 11 = cmOff 19 11 := by decide

/-- The last fill that fits, the first that does not, and an empty fill past the payload. -/
theorem witness_FillExpandsToAscendingPayloadWrites :
    (AsmLine.fill 3958 2 255).expand.isSome = true ∧ (AsmLine.fill 3959 2 255).expand = none
      ∧ (AsmLine.fill 3960 0 255).expand = some [] ∧ (AsmLine.fill 5000 0 0).expand = none := by decide

theorem witness_LoadWritesTheControlBytesAndThePayload : (List.replicate 4097 (0x00#8 : Byte)).length = 4097 :=
  List.length_replicate

end Sys2Proof.Tests
end

section
/-! SUPPORT. The four flags of `STATUS` across a step: what each of the five events does to them, and that every other step
keeps them (10_state.md R34 to R37, 60_exceptions.md R241). -/

namespace Sys2Proof.Machine

section Rules

variable {s t : State}

/-- The values of the four flags of `STATUS`. -/
structure State.FlagsAre (t : State) (b d v e : Bool) : Prop where
  busy : t.busy = b
  done : t.done = d
  rv : t.rv = v
  cmderr : t.cmderr = e

/-- A state that differs in fields other than the flags has the same flags. -/
abbrev State.SameFlags (s t : State) : Prop := t.FlagsAre s.busy s.done s.rv s.cmderr

/-! ### What each event does -/

/-- When the host's next operation is `i`, a step is `exec i` with the line and the turn taken off. -/
theorem step_of_nextIs {i : Instr} (hi : s.nextIs i) : ∃ rest, step s = exec i (s.popTurn.setHost rest) := by
  obtain ⟨hturn, w, rest, hhost, rfl⟩ := hi
  exact ⟨rest, by simp only [step, hturn, takeTurn, hostTurn, State.popTurn_host, hhost, hostTransaction, decode]⟩

/-- An idle block that answers START has begun the run (43_host_interface.md R194). -/
theorem execCmdStart_idle_next (hb : s.busy = false) (h : execCmdStart s = .next t) : t = s.frameSetup.beginRun := by
  unfold execCmdStart at h
  rw [if_neg (by simp [hb])] at h
  split at h <;> cases h
  rfl

/-- An accepted START: `BUSY` is set, `DONE` and `RV` are cleared. -/
theorem step_acceptsStart_flags (hs : s.acceptsStart) (h : step s = .next t) :
    t.FlagsAre true false false s.cmderr := by
  obtain ⟨hi, hb⟩ := hs
  obtain ⟨rest, e⟩ := step_of_nextIs hi
  obtain rfl := execCmdStart_idle_next (s := s.popTurn.setHost rest) hb (e.symm.trans h)
  exact ⟨rfl, rfl, rfl, rfl⟩

/-- ACK: `DONE` and `CMDERR` are cleared (R195). -/
theorem step_ack_flags (ha : s.nextIs .cmdAck) (h : step s = .next t) : t.FlagsAre s.busy false s.rv false := by
  obtain ⟨rest, e⟩ := step_of_nextIs ha
  cases e.symm.trans h
  exact ⟨rfl, rfl, rfl, rfl⟩

/-- A rejection records itself and does nothing else to the block (60_exceptions.md R241). -/
theorem step_rejects_eq (hr : s.rejects) (h : step s = .next t) : ∃ rest, t = (s.popTurn.setHost rest).reject := by
  rcases hr with ⟨hi, hb⟩ | ⟨a, d, hi, hb⟩ | ⟨d, hi⟩ <;> obtain ⟨rest, e⟩ := step_of_nextIs hi <;>
    refine ⟨rest, ?_⟩ <;> rw [e] at h
  · simpa [exec, execCmdStart, hb] using h.symm
  · simpa [exec, execSbPay, hb] using h.symm
  · simpa [exec, execCmdRsv] using h.symm

/-- A rejection sets `CMDERR` and keeps the other flags. -/
theorem step_rejects_flags (hr : s.rejects) (h : step s = .next t) : t.FlagsAre s.busy s.done s.rv true := by
  obtain ⟨rest, rfl⟩ := step_rejects_eq hr h
  exact ⟨rfl, rfl, rfl, rfl⟩

/-- A reset cycle clears the four flags (70_reset_and_hazards.md R271). -/
theorem step_rst_flags (hz : s.nextTurn = .rst) (h : step s = .next t) : t.FlagsAre false false false false := by
  unfold step at h
  rw [hz] at h
  cases h
  exact ⟨rfl, rfl, rfl, rfl⟩

/-- A painting keeps the flags and the cell counter. -/
theorem Painted.sameFlags {S : Nat → Prop} {f : Nat → Rgb} (hp : Painted s t S f) : s.SameFlags t ∧ t.c = s.c := by
  rw [hp.keeps]
  exact ⟨⟨rfl, rfl, rfl, rfl⟩, rfl⟩

/-- The last CELL_STEP performs COMPLETE: `BUSY` is cleared, `DONE` and `RV` are set (42_pixel_expansion.md R171). -/
theorem step_completes_flags (hc : s.completes) (h : step s = .next t) : t.FlagsAre false true true s.cmderr := by
  obtain ⟨hturn, hbusy, hlast⟩ := hc
  have hen : engineEnabled s.popTurn = true := by simp [engineEnabled, hbusy, hlast]
  have he : engineTurn s.popTurn = .next t := by
    unfold step at h
    rwa [hturn] at h
  rcases engineTurn_next_cases he with ⟨hno, _⟩ | ⟨_, u, rfl, hp⟩
  · simp [hen] at hno
  · obtain ⟨hflags, hcount⟩ := hp.sameFlags
    rw [finishCell_last (by rw [hcount]; exact hlast)]
    exact ⟨rfl, rfl, rfl, hflags.cmderr⟩

/-! ### Every other step -/

/-- A host operation that answers next is START in an idle block, ACK or a rejection, or it keeps the flags. -/
theorem exec_named_or_sameFlags {i : Instr} (h : exec i s = .next t) :
    (i = .cmdStart ∧ s.busy = false) ∨ i = .cmdAck
      ∨ ((∃ a d, i = .sbPay a d ∧ s.busy = true) ∨ (i = .cmdStart ∧ s.busy = true) ∨ ∃ d, i = .cmdRsv d)
      ∨ s.SameFlags t := by
  rcases exec_next_cases h with ⟨_, rfl⟩ | ⟨hr, _⟩ | ⟨_, _, _, _, rfl⟩ | ⟨hs, hb, _⟩ | ⟨ha, _⟩ | ⟨_, _, rfl⟩
    | ⟨_, _, rfl⟩ | ⟨_, _, rfl⟩ | ⟨_, _, rfl⟩
  case inr.inl => exact .inr (.inr (.inl hr))
  case inr.inr.inr.inl => exact .inl ⟨hs, hb⟩
  case inr.inr.inr.inr.inl => exact .inr (.inl ha)
  all_goals exact .inr (.inr (.inr ⟨rfl, rfl, rfl, rfl⟩))

/-- A turn of the engine is the last CELL_STEP, or it keeps the flags. -/
theorem engineTurn_last_or_sameFlags (h : engineTurn s = .next t) :
    (s.busy = true ∧ s.c.toNat = 239) ∨ s.SameFlags t := by
  rcases engineTurn_next_cases h with ⟨_, rfl⟩ | ⟨hen, u, rfl, hp⟩
  · exact .inr ⟨rfl, rfl, rfl, rfl⟩
  · obtain ⟨hflags, hcount⟩ := hp.sameFlags
    obtain ⟨hb, hc⟩ : s.busy = true ∧ s.c.toNat < 240 := by simpa [engineEnabled] using hen
    rcases (by omega : s.c.toNat = 239 ∨ s.c.toNat < 239) with hlast | hmore
    · exact .inl ⟨hb, hlast⟩
    · rw [finishCell_more (by rwa [hcount])]
      exact .inr ⟨hflags.busy, hflags.done, hflags.rv, hflags.cmderr⟩

/-- What a step did to the flags: one of five events with its effect, or nothing. -/
inductive StatusStep (s t : State) : Prop
  | start (hs : s.acceptsStart) (f : t.FlagsAre true false false s.cmderr)
  | complete (hc : s.completes) (f : t.FlagsAre false true true s.cmderr)
  | ack (ha : s.nextIs .cmdAck) (f : t.FlagsAre s.busy false s.rv false)
  | reject (hr : s.rejects) (f : t.FlagsAre s.busy s.done s.rv true)
  | rst (hz : s.nextTurn = .rst) (f : t.FlagsAre false false false false)
  | keep (f : s.SameFlags t)

/-- Everything a step that answers next can do to the flags. -/
theorem step_status (h : step s = .next t) : StatusStep s t := by
  rcases step_next_cases h with ⟨hturn, hh⟩ | ⟨hturn, he⟩ | ⟨hturn, _⟩
  · rcases hostTurn_next_cases hh with ⟨_, rfl⟩ | ⟨w, rest, hhost, hx⟩ | ⟨_, _, _, _, _, _, rfl⟩
    · exact .keep ⟨rfl, rfl, rfl, rfl⟩
    · have hnext {i : Instr} (hi : decodeHbus w = i) : s.nextIs i := ⟨hturn, w, rest, hhost, hi⟩
      have hreject (hr : s.rejects) : StatusStep s t := .reject hr (step_rejects_flags hr h)
      rcases exec_named_or_sameFlags hx with ⟨hi, hb⟩ | hi | (⟨a, d, hi, hb⟩ | ⟨hi, hb⟩ | ⟨d, hi⟩) | hk
      · exact .start ⟨hnext hi, hb⟩ (step_acceptsStart_flags ⟨hnext hi, hb⟩ h)
      · exact .ack (hnext hi) (step_ack_flags (hnext hi) h)
      · exact hreject (.inr (.inl ⟨a, d, hnext hi, hb⟩))
      · exact hreject (.inl ⟨hnext hi, hb⟩)
      · exact hreject (.inr (.inr ⟨d, hnext hi⟩))
      · exact .keep hk
    · exact .keep ⟨rfl, rfl, rfl, rfl⟩
  · rcases engineTurn_last_or_sameFlags he with ⟨hb, hc⟩ | hk
    · exact .complete ⟨hturn, hb, hc⟩ (step_completes_flags ⟨hturn, hb, hc⟩ h)
    · exact .keep hk
  · exact .rst hturn (step_rst_flags hturn h)

/-- While `RV = 0` a raster read returns 0x00 (43_host_interface.md R205). -/
theorem exec_lbRas_of_not_rv (a : HostAddr) (d : Byte) (hv : s.rv = false) :
    exec (.lbRas a d) s = .next (s.setRdata 0x00#8) := by
  simp [exec, execLbRas, hv]

/-- No step makes `BUSY` and `DONE` both 1 (10_state.md R35). -/
theorem step_keeps_notBusyDone (h : step s = .next t) (hn : ¬ (s.busy = true ∧ s.done = true)) :
    ¬ (t.busy = true ∧ t.done = true) := by
  rintro ⟨hb, hd⟩
  cases step_status h with
  | start _ f => simp [f.done] at hd
  | complete _ f => simp [f.busy] at hb
  | ack _ f => simp [f.done] at hd
  | reject _ f => exact hn ⟨f.busy ▸ hb, f.done ▸ hd⟩
  | rst _ f => simp [f.busy] at hb
  | keep f => exact hn ⟨f.busy ▸ hb, f.done ▸ hd⟩

end Rules

/-! ### The statements -/

/-- Settles O38: each event's effect on `BUSY`, and the steps that are no such event keep it. -/
theorem busyIsWrittenByStartCompleteAndResetAlone : Obligations.BusyIsWrittenByStartCompleteAndResetAlone := by
  intro s t h
  refine ⟨fun hs => (step_acceptsStart_flags hs h).busy, fun hc => (step_completes_flags hc h).busy,
    fun hz => (step_rst_flags hz h).busy, fun hns hnc hnz => ?_⟩
  cases step_status h with
  | start hs _ => exact absurd hs hns
  | complete hc _ => exact absurd hc hnc
  | ack _ f => exact f.busy
  | reject _ f => exact f.busy
  | rst hz _ => exact absurd hz hnz
  | keep f => exact f.busy

/-- Settles O39: each event's effect on `DONE`, and `BUSY` beside it stays excluded. -/
theorem doneIsSetByCompleteAndClearedByStartAckAndReset :
    Obligations.DoneIsSetByCompleteAndClearedByStartAckAndReset := by
  intro s t h
  refine ⟨fun hc => (step_completes_flags hc h).done, ?_, fun hnc hns hna hnz => ?_, step_keeps_notBusyDone h⟩
  · rintro (hs | ha | hz)
    · exact (step_acceptsStart_flags hs h).done
    · exact (step_ack_flags ha h).done
    · exact (step_rst_flags hz h).done
  · cases step_status h with
    | start hs _ => exact absurd hs hns
    | complete hc _ => exact absurd hc hnc
    | ack ha _ => exact absurd ha hna
    | reject _ f => exact f.done
    | rst hz _ => exact absurd hz hnz
    | keep f => exact f.done

/-- Settles O40: each event's effect on `RV`, and the raster window while it is 0. -/
theorem rvIsSetByCompleteAndClearedByStartAndReset : Obligations.RvIsSetByCompleteAndClearedByStartAndReset := by
  intro s t h
  refine ⟨fun hc => (step_completes_flags hc h).rv, ?_, fun hnc hns hnz => ?_, fun hv a d _ => exec_lbRas_of_not_rv a d hv⟩
  · rintro (hs | hz)
    · exact (step_acceptsStart_flags hs h).rv
    · exact (step_rst_flags hz h).rv
  · cases step_status h with
    | start hs _ => exact absurd hs hns
    | complete hc _ => exact absurd hc hnc
    | ack _ f => exact f.rv
    | reject _ f => exact f.rv
    | rst hz _ => exact absurd hz hnz
    | keep f => exact f.rv

/-- Settles O41: a rejection is its record alone, and the other events' effect on `CMDERR`. -/
theorem cmderrIsSetByRejectionsAndClearedByAckOrReset : Obligations.CmderrIsSetByRejectionsAndClearedByAckOrReset := by
  intro s t h
  refine ⟨fun hr => ?_, ?_, fun hnr hna hnz => ?_⟩
  · obtain ⟨rest, rfl⟩ := step_rejects_eq hr h
    rfl
  · rintro (ha | hz)
    · exact (step_ack_flags ha h).cmderr
    · exact (step_rst_flags hz h).cmderr
  · cases step_status h with
    | start _ f => exact f.cmderr
    | complete _ f => exact f.cmderr
    | ack ha _ => exact absurd ha hna
    | reject hr _ => exact absurd hr hnr
    | rst hz _ => exact absurd hz hnz
    | keep f => exact f.cmderr

end Sys2Proof.Machine
end

section
/-! SUPPORT. The transactions that `load` expands to (20_memory.md R62, 30_encoding.md R108). -/

namespace Sys2Proof.Machine

/-- The store of a byte at a host address, as a line of the host's program. -/
def storeLine (addr : Nat) (d : Byte) : HostLine := .txn (hbusWord 1#1 (BitVec.ofNat 20 addr) d)

/-- A byte is an immediate in range. -/
theorem asmSb_byte {addr : Nat} (ha : addr ≤ 0xFFFFF) (d : Byte) : asmSb addr d.toNat = some (storeLine addr d) := by
  rw [asmSb_eq ha (Nat.le_of_lt_succ d.isLt), BitVec.ofNat_toNat, BitVec.setWidth_eq, storeLine]

/-- A byte is a payload value in range. -/
theorem asmWpay_byte {o : Nat} (ho : o < 3960) (d : Byte) : asmWpay o d.toNat = some (storeLine o d) := by
  rw [asmWpay, if_pos (Nat.le_of_lt_succ ho), asmSb_byte (by omega)]

/-- What `load f` writes: `BD`, `BA` and the payload, from file bytes 15, 16 and 17 on. -/
def loadLines (f : List Byte) : List HostLine :=
  storeLine 0x01003 (f.getD 15 0#8) :: storeLine 0x01002 (f.getD 16 0#8) ::
    (List.range 3960).map fun o => storeLine o (f.getD (17 + o) 0#8)

theorem loadLines_length (f : List Byte) : (loadLines f).length = 3962 := by simp [loadLines]

/-- After the two control bytes the lines follow the payload offsets. -/
theorem loadLines_payload (f : List Byte) {o : Nat} (ho : o < 3960) :
    (loadLines f)[2 + o]? = some (storeLine o (f.getD (17 + o) 0#8)) := by
  rw [Nat.add_comm 2 o]
  simp [loadLines, ho]

/-- `load` of a file of the right length expands to its lines: no store in it is out of range. -/
theorem expand_load {f : List Byte} (hf : f.length = 4097) : (AsmLine.load f).expand = some (loadLines f) := by
  have hpay : (List.range 3960).map (fun o => asmWpay o (f.getD (17 + o) 0#8).toNat)
      = ((List.range 3960).map fun o => storeLine o (f.getD (17 + o) 0#8)).map some := by
    rw [List.map_map]
    exact List.map_congr_left fun o ho => asmWpay_byte (List.mem_range.mp ho) _
  simp only [AsmLine.expand]
  rw [if_pos hf, allLines_eq_some, loadLines, List.map_cons, List.map_cons, ← hpay, ← asmSb_byte (by omega),
    ← asmSb_byte (by omega)]
  rfl

/-- Settles O51: the expansion is `loadLines`, whose entries are the stores the statement lists. -/
theorem loadWritesTheControlBytesAndThePayload : Obligations.LoadWritesTheControlBytesAndThePayload := fun f hf =>
  ⟨loadLines f, expand_load hf, loadLines_length f, rfl, rfl, fun _ ho => loadLines_payload f ho⟩

end Sys2Proof.Machine
end

section
/-! SUPPORT. The contents of the palette ROM (40_palette.md R121). -/

namespace Sys2Proof.Machine

/-- Settles O9: a closed fact, in which each lookup computes to the literal at its own place of `palTable`. -/
theorem paletteHoldsTheSixteenColours : Obligations.PaletteHoldsTheSixteenColours :=
  ⟨rfl, rfl, rfl, rfl,
    rfl, rfl, rfl, rfl,
    rfl, rfl, rfl, rfl,
    rfl, rfl, rfl, rfl⟩

end Sys2Proof.Machine
end

section
/-! SUPPORT. What CELL_SETUP computes: the registers before SLOT_ADJUST, and what SLOT_ADJUST makes of them
(41_cell_setup.md R133 to R140). -/

namespace Sys2Proof.Machine

/-! ### SLOT_ADJUST -/

/-- SLOT_ADJUST writes the slots alone, and `S3` is `SLOT3` in every case. -/
theorem slotAdjust_keeps (inv : Bool) (slot3 : Rgb) (r : CellRegs) :
    slotAdjust inv slot3 r
      = { r with
          s0 := (slotAdjust inv slot3 r).s0, s1 := (slotAdjust inv slot3 r).s1, s2 := (slotAdjust inv slot3 r).s2,
          s3 := slot3 } := by
  unfold slotAdjust
  split
  · rfl
  · split <;> rfl

/-- A multicolor cell exchanges slots 1 and 2, whatever `INV`. -/
theorem slotAdjust_of_multicolor (inv : Bool) (slot3 : Rgb) {r : CellRegs} (hmc : r.mc = true) :
    slotAdjust inv slot3 r = { r with s1 := r.s2, s2 := r.s1, s3 := slot3 } :=
  if_pos hmc

/-- An inverse hi-res cell exchanges slots 0 and 1. -/
theorem slotAdjust_of_inverse (slot3 : Rgb) {r : CellRegs} (hmc : r.mc = false) :
    slotAdjust true slot3 r = { r with s0 := r.s1, s1 := r.s0, s3 := slot3 } := by
  simp [slotAdjust, hmc]

/-- A normal hi-res cell exchanges nothing. -/
theorem slotAdjust_of_normal (slot3 : Rgb) {r : CellRegs} (hmc : r.mc = false) :
    slotAdjust false slot3 r = { r with s3 := slot3 } := by
  simp [slotAdjust, hmc]

/-! ### CELL_SETUP -/

/-- The colour-map byte of the current cell (R134). -/
def State.cellMapByte (s : State) : Byte := s.payByte (cmOff (cellCol s.c) (cellRow s.c))

/-- The current cell's nibble of it (R135). -/
def State.cellNibble (s : State) : BitVec 4 := nibbleSelect s.cellMapByte (cellCol s.c)

/-- CELL_SETUP's working registers before SLOT_ADJUST (R134 to R139). -/
def State.unadjustedRegs (s : State) : CellRegs :=
  { s.cell with
    cm := s.cellMapByte, n := s.cellNibble, mc := multicolorFlag s.cellNibble, c1 := nibbleColour s.cellNibble,
    s0 := pal (fieldBG s.lba), s1 := pal (zext4 (nibbleColour s.cellNibble)), s2 := pal (zext4 (fieldC2 s.lba)) }

theorem State.setupRegs_eq_slotAdjust (s : State) :
    s.setupRegs = slotAdjust s.inv s.slot3 s.unadjustedRegs := rfl

theorem State.unadjustedRegs_mc (s : State) : s.unadjustedRegs.mc = s.cellNibble.getLsbD 3 :=
  multicolorFlag_eq s.cellNibble

/-- All registers but the first three slots are settled before SLOT_ADJUST or by `SLOT3`. -/
theorem State.setupRegs_keeps (s : State) :
    s.setupRegs
      = { s.unadjustedRegs with
          s0 := s.setupRegs.s0, s1 := s.setupRegs.s1, s2 := s.setupRegs.s2, s3 := s.slot3 } :=
  slotAdjust_keeps s.inv s.slot3 s.unadjustedRegs

@[simp] theorem State.setupRegs_cm (s : State) : s.setupRegs.cm = s.cellMapByte :=
  congrArg CellRegs.cm s.setupRegs_keeps
@[simp] theorem State.setupRegs_n (s : State) : s.setupRegs.n = s.cellNibble := congrArg CellRegs.n s.setupRegs_keeps
@[simp] theorem State.setupRegs_mc (s : State) : s.setupRegs.mc = s.cellNibble.getLsbD 3 :=
  (congrArg CellRegs.mc s.setupRegs_keeps).trans s.unadjustedRegs_mc
@[simp] theorem State.setupRegs_c1 (s : State) : s.setupRegs.c1 = nibbleColour s.cellNibble :=
  congrArg CellRegs.c1 s.setupRegs_keeps
@[simp] theorem State.setupRegs_s3 (s : State) : s.setupRegs.s3 = s.slot3 := congrArg CellRegs.s3 s.setupRegs_keeps
@[simp] theorem State.setupRegs_bm (s : State) : s.setupRegs.bm = s.cell.bm :=
  (congrArg CellRegs.bm s.setupRegs_keeps).trans rfl
@[simp] theorem State.setupRegs_col (s : State) : s.setupRegs.col = s.cell.col :=
  (congrArg CellRegs.col s.setupRegs_keeps).trans rfl

/-- A multicolor cell's registers: background, low colour, cell colour, `SLOT3`. -/
theorem State.setupRegs_of_multicolor {s : State} (hn : s.cellNibble.getLsbD 3 = true) :
    s.setupRegs
      = { s.unadjustedRegs with s1 := s.unadjustedRegs.s2, s2 := s.unadjustedRegs.s1, s3 := s.slot3 } :=
  slotAdjust_of_multicolor s.inv s.slot3 (s.unadjustedRegs_mc.trans hn)

/-- An inverse hi-res cell's registers: cell colour, background, low colour, `SLOT3`. -/
theorem State.setupRegs_of_inverse {s : State} (hn : s.cellNibble.getLsbD 3 = false) (hinv : s.inv = true) :
    s.setupRegs
      = { s.unadjustedRegs with s0 := s.unadjustedRegs.s1, s1 := s.unadjustedRegs.s0, s3 := s.slot3 } := by
  rw [s.setupRegs_eq_slotAdjust, hinv]
  exact slotAdjust_of_inverse s.slot3 (s.unadjustedRegs_mc.trans hn)

/-- A normal hi-res cell's registers: background, cell colour, low colour, `SLOT3`. -/
theorem State.setupRegs_of_normal {s : State} (hn : s.cellNibble.getLsbD 3 = false) (hinv : s.inv = false) :
    s.setupRegs = { s.unadjustedRegs with s3 := s.slot3 } := by
  rw [s.setupRegs_eq_slotAdjust, hinv]
  exact slotAdjust_of_normal s.slot3 (s.unadjustedRegs_mc.trans hn)

/-- Settles O27: the registers SLOT_ADJUST keeps one by one, then the slots in its three exclusive cases. -/
theorem cellSetupComputesTheWorkingRegisters : Obligations.CellSetupComputesTheWorkingRegisters := by
  intro s
  refine ⟨rfl, s.setupRegs_cm, s.setupRegs_n, s.setupRegs_mc, s.setupRegs_c1, s.setupRegs_s3, s.setupRegs_bm,
    s.setupRegs_col, fun hmc => ?_, fun hhr hinv => ?_, fun hhr hinv => ?_⟩
  · rw [s.cellSetup_cell, State.setupRegs_of_multicolor hmc]
    exact ⟨rfl, rfl, rfl⟩
  · rw [s.cellSetup_cell, State.setupRegs_of_inverse hhr hinv]
    exact ⟨rfl, rfl, rfl⟩
  · rw [s.cellSetup_cell, State.setupRegs_of_normal hhr hinv]
    exact ⟨rfl, rfl, rfl⟩

end Sys2Proof.Machine
end

section
/-! SUPPORT. What a row expansion writes: its eight pixels by column, and the frame (42_pixel_expansion.md R162, R165). -/

namespace Sys2Proof.Machine

/-! ### Rows by column -/

/-- The picture of a row whose column `x2` has the colour `colour x2`, by pixel index: rows begin at a multiple of 8. -/
def rowPicture (colour : Nat → Rgb) (p : Nat) : Rgb := colour (p % 8)

theorem rowPicture_pixelIndex (colour : Nat → Rgb) (x1 y1 y2 : Nat) {x2 : Nat} (hx : x2 < 8) :
    rowPicture colour (pixelIndex (8 * x1 + x2) (16 * y1 + y2)) = colour x2 := by
  have hcol : pixelIndex (8 * x1 + x2) (16 * y1 + y2) % 8 = x2 := by unfold pixelIndex; omega
  rw [rowPicture, hcol]

/-- From `s` to `t` only the raster and `col` changed, and of the raster the row's eight pixels alone, which have the
colours of their columns. -/
structure RowWritten (x1 y1 y2 : Nat) (s t : State) (colour : Nat → Rgb) : Prop where
  keeps : t = { s with ras := t.ras, cell := { s.cell with col := t.cell.col } }
  pixel : ∀ x2, x2 < 8 → t.rasPixel (160 * (16 * y1 + y2) + (8 * x1 + x2)) = colour x2
  outside : ∀ q, (∀ x2, x2 < 8 → q / 3 ≠ 160 * (16 * y1 + y2) + (8 * x1 + x2)) → t.ras.read? q = s.ras.read? q

/-- A row painted with its columns' colours is written. -/
theorem Painted.rowWritten {x1 y1 y2 : Nat} {s t : State} {colour : Nat → Rgb}
    (hp : Painted s t (InRow x1 y1 y2) (rowPicture colour)) (hc : SameButCol s.cell t) :
    RowWritten x1 y1 y2 s t colour := by
  refine ⟨?keeps, fun x2 hx => ?pixel, fun q hq => ?outside⟩
  case keeps =>
    obtain ⟨v, hv⟩ := hc
    rw [hp.keeps]
    simp [hv]
  case pixel =>
    exact (hp.rasPixel _ ⟨x2, hx, rfl⟩).trans (rowPicture_pixelIndex colour x1 y1 y2 hx)
  case outside =>
    exact hp.outside q fun ⟨x2, hx, he⟩ => hq x2 hx he

/-- HR_ROW_EXPAND answers, and gives each column the colour its code selects. -/
theorem hrRowExpand_writes (x1 y1 y2 : Nat) (s : State) :
    ∃ t, hrRowExpand x1 y1 y2 s = .next t
      ∧ RowWritten x1 y1 y2 s t fun x2 => hrColour s.cell (hrCode s.cell.bm x2) := by
  obtain ⟨t, ht, hc, hp⟩ := hrRowExpand_paints x1 y1 y2 s _ fun _ hx => rowPicture_pixelIndex _ x1 y1 y2 hx
  exact ⟨t, ht, hp.rowWritten hc⟩

/-- MC_ROW_EXPAND answers, and gives each column the colour its pair's code selects. -/
theorem mcRowExpand_writes (x1 y1 y2 : Nat) (s : State) :
    ∃ t, mcRowExpand x1 y1 y2 s = .next t
      ∧ RowWritten x1 y1 y2 s t fun x2 => mcColour s.cell (mcCode s.cell.bm (x2 / 2 * 2)) := by
  obtain ⟨t, ht, hc, hp⟩ := mcRowExpand_paints x1 y1 y2 s _ fun _ hx => rowPicture_pixelIndex _ x1 y1 y2 hx
  exact ⟨t, ht, hp.rowWritten hc⟩

/-! ### Codes as bits of `BM` -/

/-- The hi-res code of a column is 0 exactly when its bit, counted from the most significant, is clear. -/
theorem hrCode_eq_zero_iff (bm : Byte) (x2 : Nat) : hrCode bm x2 = 0#1 ↔ bm.getLsbD (7 - x2) = false := by
  simp [hrCode, BitVec.eq_of_getLsbD_eq_iff]

/-- A hi-res column's colour: `S1` where its bit is set, `S0` where it is clear. -/
theorem hrColour_hrCode (r : CellRegs) (bm : Byte) (x2 : Nat) :
    hrColour r (hrCode bm x2) = if bm.getLsbD (7 - x2) then r.s1 else r.s0 := by
  unfold hrColour
  cases hb : bm.getLsbD (7 - x2) with
  | false => rw [if_pos ((hrCode_eq_zero_iff bm x2).mpr hb), if_neg Bool.false_ne_true]
  | true => rw [if_neg (by simp [hrCode_eq_zero_iff, hb]), if_pos rfl]

/-- Settles O29: the row as written by column, each code read as a bit of `BM`. -/
theorem hiResRowWritesEightPixels : Obligations.HiResRowWritesEightPixels := by
  intro x1 y1 y2 s
  obtain ⟨t, ht, hrow⟩ := hrRowExpand_writes x1 y1 y2 s
  exact ⟨t, ht, hrow.keeps, fun x2 hx => (hrow.pixel x2 hx).trans (hrColour_hrCode s.cell s.cell.bm x2), hrow.outside⟩

/-- Settles O30: the row as written by column; columns `2j` and `2j+1` are of the pair that begins at `2j`. -/
theorem multicolorRowWritesFourDoubledPixels : Obligations.MulticolorRowWritesFourDoubledPixels := by
  intro x1 y1 y2 s
  obtain ⟨t, ht, hrow⟩ := mcRowExpand_writes x1 y1 y2 s
  refine ⟨t, ht, hrow.keeps, fun j hj => ?_, hrow.outside⟩
  have hpair : ∀ x2, x2 < 8 → x2 / 2 * 2 = 2 * j →
      t.rasPixel (160 * (16 * y1 + y2) + (8 * x1 + x2)) = mcColour s.cell (mcCode s.cell.bm (2 * j)) :=
    fun x2 hx he => by rw [hrow.pixel x2 hx, he]
  exact ⟨hpair (2 * j) (by omega) (by omega), hpair (2 * j + 1) (by omega) (by omega)⟩

end Sys2Proof.Machine
end

section
/-! SUPPORT. The host operations one by one: what each answers in each of its cases, and which of them cannot touch a run
(43_host_interface.md R191 to R207, R225). -/

namespace Sys2Proof.Machine

section Rules

variable {s t : State}

/-! ### Payload bytes -/

/-- A payload write during a run is rejected (R191). -/
theorem exec_sbPay_of_busy (a : HostAddr) (d : Byte) (hb : s.busy = true) : exec (.sbPay a d) s = .next s.reject :=
  if_pos hb

/-- A payload write outside a run is stored (R191). -/
theorem exec_sbPay_of_idle (a : HostAddr) (d : Byte) (hb : s.busy = false) :
    exec (.sbPay a d) s = .next (s.payStore a.toNat d) :=
  if_neg (ne_true_of_eq_false hb)

/-- A payload byte that is listed is returned (R192). -/
theorem exec_lbPay_of_read {a : HostAddr} {b : Byte} (d : Byte) (hr : s.pay.read? a.toNat = some b) :
    exec (.lbPay a d) s = .next (s.setRdata b) := by
  simp only [exec, execLbPay, hr]

/-- A payload byte that nothing has written faults (R192). -/
theorem exec_lbPay_of_unwritten {a : HostAddr} (d : Byte) (hw : s.wPAY a.toNat = false) :
    exec (.lbPay a d) s = .fault .unwrittenRead := by
  have hr : s.pay.read? a.toNat = none := by simpa [State.wPAY] using hw
  simp only [exec, execLbPay, hr]

/-! ### START -/

/-- START during a run is rejected (R194). -/
theorem exec_cmdStart_of_busy (hb : s.busy = true) : exec .cmdStart s = .next s.reject := if_pos hb

/-- START outside a run is decided by the input check (R194). -/
theorem exec_cmdStart_of_idle (hb : s.busy = false) :
    exec .cmdStart s = if s.inputsWritten then .next s.frameSetup.beginRun else .fault .unwrittenInput :=
  if_neg (ne_true_of_eq_false hb)

/-- The input check fails exactly when some input is unwritten. -/
theorem State.inputsWritten_eq_false_iff :
    s.inputsWritten = false ↔ s.wBA = false ∨ s.wBD = false ∨ ∃ o, o < 3960 ∧ s.wPAY o = false := by
  rw [← Bool.not_eq_true, State.inputsWritten_iff]
  simp only [not_and_or, not_forall, Bool.not_eq_true, exists_prop]

/-! ### The status byte -/

/-- The status byte by bit: `BUSY`, `DONE`, `RV`, `CMDERR`, and zeros above (R199). -/
theorem State.status_getLsbD (s : State) (k : Nat) :
    s.status.getLsbD k = (k == 0 && s.busy || k == 1 && s.done || k == 2 && s.rv || k == 3 && s.cmderr) := by
  simp only [State.status, BitVec.getLsbD_append]
  rcases k with _ | _ | _ | _ | k <;> simp

/-! ### The raster window -/

/-- With a valid raster, the window's byte at component `k` of pixel `p` is returned (R205). -/
theorem exec_lbRas_of_rv {a : HostAddr} {p k : Nat} (d : Byte) (hv : s.rv = true) (hk : k < 3)
    (ha : a.toNat = 0x20000 + rasOff p k) : exec (.lbRas a d) s = .next (s.setRdata (component (s.rasPixel p) k)) := by
  unfold rasOff at ha
  have hp : (a.toNat - 0x20000) / 3 = p := by omega
  have hc : (a.toNat - 0x20000) % 3 = k := by omega
  simp only [exec, execLbRas, hv, if_true, hp, hc]

/-! ### The host's liberties -/

/-- The operations the host may perform at any time (R225). -/
def hostLiberties (a : HostAddr) (d : Byte) : List Instr :=
  [.lbPay a d, .lbRsv a d, .lbCmd d, .lbStatus d, .lbBa d, .lbBd d, .lbRas a d, .sbBa d, .sbBd d, .cmdAck,
   .cmdNop, .sbStatus d, .sbRas a d, .sbRsv a d]

theorem format_of_mem_hostLiberties {a : HostAddr} {d : Byte} : ∀ i ∈ hostLiberties a d, i.format = .hbus := by
  simp [hostLiberties, Instr.format]

/-- A liberty does nothing, or it is ACK, a control write or a read: the remaining cases of an instruction are no
liberties. -/
theorem exec_liberty_next_cases {a : HostAddr} {d : Byte} {i : Instr} (hi : i ∈ hostLiberties a d)
    (h : exec i s = .next t) :
    t = s ∨ t = s.acknowledge ∨ (∃ v, t = s.setBa v) ∨ (∃ v, t = s.setBd v) ∨ ∃ b, t = s.setRdata b := by
  rcases exec_next_cases h with ⟨_, e⟩ | ⟨⟨_, _, rfl, _⟩ | ⟨rfl, _⟩ | ⟨_, rfl⟩, _⟩ | ⟨_, _, rfl, _⟩ | ⟨rfl, _⟩ | ⟨_, e⟩
    | ⟨v, _, e⟩ | ⟨v, _, e⟩ | ⟨_, b, e⟩ | ⟨hf, _⟩
  · exact .inl e
  · simp [hostLiberties] at hi
  · simp [hostLiberties] at hi
  · simp [hostLiberties] at hi
  · simp [hostLiberties] at hi
  · simp [hostLiberties] at hi
  · exact .inr (.inl e)
  · exact .inr (.inr (.inl ⟨v, e⟩))
  · exact .inr (.inr (.inr (.inl ⟨v, e⟩)))
  · exact .inr (.inr (.inr (.inr ⟨b, e⟩)))
  · exact absurd (format_of_mem_hostLiberties i hi) hf

end Rules

/-! ### The statements -/

/-- Settles O10: rejected while BUSY; otherwise the answer is `State.payStore`, and a store leaves the other bytes alone. -/
theorem sbPayStoresTheByteOrIsRejected : Obligations.SbPayStoresTheByteOrIsRejected := by
  intro s a d _
  refine ⟨exec_sbPay_of_busy a d, fun hb => ⟨s.payStore a.toNat d, exec_sbPay_of_idle a d hb, rfl, ?_, ?_, ?_, ?_⟩⟩
  · exact Memory.read?_write_same ..
  · simp [State.wPAY_payStore]
  · exact fun o ho => Memory.read?_write_other _ _ _ _ ho
  · exact fun _ => rfl

/-- Settles O13: the two cases outside a run are the two answers of the input check. -/
theorem startBeginsARunOrIsRejectedOrFaults : Obligations.StartBeginsARunOrIsRejectedOrFaults := by
  intro s
  refine ⟨exec_cmdStart_of_busy, fun hb hw => ?_, fun hb hba hbd hpay => ?_⟩
  · rw [exec_cmdStart_of_idle hb, State.inputsWritten_eq_false_iff.mpr hw]
    rfl
  · rw [exec_cmdStart_of_idle hb, if_pos (s.inputsWritten_iff.mpr ⟨hba, hbd, hpay⟩), ← inverseFlag_eq]
    rfl

/-- Settles O20: the address names its pixel and component uniquely. -/
theorem lbRasReturnsAComponentWhenTheRasterIsValid : Obligations.LbRasReturnsAComponentWhenTheRasterIsValid :=
  fun _ a d _ => ⟨exec_lbRas_of_not_rv a d, fun _ _ _ hk ha hv => exec_lbRas_of_rv d hv hk (ha.trans (Nat.add_assoc ..))⟩

/-- Settles O23: each of the five things a liberty can do leaves the run's state and sets no `CMDERR`. -/
theorem hostLibertiesNeverHarmARun : Obligations.HostLibertiesNeverHarmARun := by
  intro s t a d i hi h
  rcases exec_liberty_next_cases (a := a) (d := d) hi h with rfl | rfl | ⟨_, rfl⟩ | ⟨_, rfl⟩ | ⟨_, rfl⟩ <;>
    exact ⟨by simp, rfl, rfl, rfl, rfl, rfl, rfl, rfl, rfl, fun _ => rfl, fun _ => rfl⟩

/-- Settles O11: the two cases of the written-mark, in which `BUSY` plays no part. -/
theorem lbPayReturnsTheByteOrFaults : Obligations.LbPayReturnsTheByteOrFaults :=
  fun _ _ d _ => ⟨exec_lbPay_of_unwritten d, fun _ => exec_lbPay_of_read d⟩

/-- Settles O12: the four operations answer the state they were given. -/
theorem ignoredWritesChangeNothing : Obligations.IgnoredWritesChangeNothing :=
  fun _ _ _ => ⟨rfl, rfl, fun _ => rfl, fun _ => rfl⟩

/-- Settles O14: ACK answers `State.acknowledge`, which writes these two flags. -/
theorem ackClearsDoneAndCmderr : Obligations.AckClearsDoneAndCmderr := fun _ => rfl

/-- Settles O15: a reserved code answers `State.reject`, whatever the code. -/
theorem reservedCommandSetsCmderrAlone : Obligations.ReservedCommandSetsCmderrAlone := fun _ _ _ => rfl

/-- Settles O16: both reads return the constant 0x00. -/
theorem commandAndReservedAddressesReadZero : Obligations.CommandAndReservedAddressesReadZero :=
  fun _ _ _ => ⟨rfl, fun _ => rfl⟩

/-- Settles O17: the byte returned is `STATUS`, read bit by bit. -/
theorem lbStatusReturnsTheFourFlags : Obligations.LbStatusReturnsTheFourFlags := by
  intro s d
  refine ⟨s.status, rfl, ?_, ?_, ?_, ?_, fun k hk => ?_⟩ <;> rw [State.status_getLsbD]
  · simp
  · simp
  · simp
  · simp
  · have hne : k ≠ 0 ∧ k ≠ 1 ∧ k ≠ 2 ∧ k ≠ 3 := by omega
    simp [hne]

/-- Settles O18: the writes answer `State.setBa` and `State.setBd`. -/
theorem controlRegisterWritesStoreTheByte : Obligations.ControlRegisterWritesStoreTheByte := fun _ _ => ⟨rfl, rfl⟩

/-- Settles O19: the register's written-mark decides between its two answers. -/
theorem controlRegisterReadsReturnTheRegisterOrFault : Obligations.ControlRegisterReadsReturnTheRegisterOrFault :=
  fun _ _ => ⟨fun hw => if_pos hw, fun hw => if_neg (ne_true_of_eq_false hw),
    fun hw => if_pos hw, fun hw => if_neg (ne_true_of_eq_false hw)⟩

end Sys2Proof.Machine
end

section
/-! SUPPORT. Decoding and encoding are inverse, and the rows of the opcode table divide the words (30_encoding.md R96 to
R103). -/

namespace Sys2Proof

/-! ### Decoding an encoded instruction -/

section Ranges

variable {a : HostAddr} (d : Byte)

theorem decodeWrite_of_payload (h : inPayload a = true) : decodeWrite a d = .sbPay a d := by simp [decodeWrite, h]

theorem decodeRead_of_payload (h : inPayload a = true) : decodeRead a d = .lbPay a d := by simp [decodeRead, h]

theorem decodeWrite_of_reserved (h : inReserved a = true) : decodeWrite a d = .sbRsv a d := by
  simp [decodeWrite, reserved_not_payload h, h]

theorem decodeRead_of_reserved (h : inReserved a = true) : decodeRead a d = .lbRsv a d := by
  simp [decodeRead, reserved_not_payload h, h]

theorem decodeWrite_of_raster (h : inRaster a = true) : decodeWrite a d = .sbRas a d := by
  simp [decodeWrite, raster_not_payload h, raster_not_reserved h, h]

theorem decodeRead_of_raster (h : inRaster a = true) : decodeRead a d = .lbRas a d := by
  simp [decodeRead, raster_not_payload h, raster_not_reserved h, h]

end Ranges

theorem decodeCommand_of_reserved {d : Byte} (h : isReservedCode d = true) : decodeCommand d = .cmdRsv d := by
  obtain ⟨h0, h1, h2⟩ := reserved_ne h
  simp [decodeCommand, h0, h1, h2]

theorem decode_write (a : HostAddr) (d : Byte) : decode (.hbus (hbusWord 1#1 a d)) = decodeWrite a d :=
  decodeHbus_write a d

theorem decode_read (a : HostAddr) (d : Byte) : decode (.hbus (hbusWord 0#1 a d)) = decodeRead a d :=
  decodeHbus_read a d

/-- A cell key with `MC = 1` keeps its other bit in the instruction. -/
theorem decode_multicolorKey (nrm : BitVec 1) : decode (.cellsel (1#1 ++ nrm)) = .cellMc nrm := by
  revert nrm
  decide

/-- Settles O2: each encoding is decoded by the address range or the code its instruction is well formed by. -/
theorem decodeOfEncodeIsTheInstruction : Obligations.DecodeOfEncodeIsTheInstruction := by
  intro i hwf
  cases i with
  | sbPay a d => exact (decode_write a d).trans (decodeWrite_of_payload d hwf)
  | lbPay a d => exact (decode_read a d).trans (decodeRead_of_payload d hwf)
  | sbRsv a d => exact (decode_write a d).trans (decodeWrite_of_reserved d hwf)
  | lbRsv a d => exact (decode_read a d).trans (decodeRead_of_reserved d hwf)
  | sbRas a d => exact (decode_write a d).trans (decodeWrite_of_raster d hwf)
  | lbRas a d => exact (decode_read a d).trans (decodeRead_of_raster d hwf)
  | cmdRsv d => exact (decode_write 0x01000#20 d).trans (decodeCommand_of_reserved hwf)
  | cmdNop | cmdStart | cmdAck => rfl
  | lbCmd d => exact decode_read 0x01000#20 d
  | sbStatus d => exact decode_write 0x01001#20 d
  | lbStatus d => exact decode_read 0x01001#20 d
  | sbBa d => exact decode_write 0x01002#20 d
  | lbBa d => exact decode_read 0x01002#20 d
  | sbBd d => exact decode_write 0x01003#20 d
  | lbBd d => exact decode_read 0x01003#20 d
  | cellMc nrm => exact decode_multicolorKey nrm
  | cellHrNormal | cellHrInverse | hrpix0 | hrpix1 | mcpix00 | mcpix01 | mcpix10 | mcpix11 => rfl

/-! ### Encoding a decoded word -/

theorem encode_decodeCommand (d : Byte) : encode (decodeCommand d) = .hbus (hbusWord 1#1 0x01000#20 d) := by
  rcases decodeCommand_cases d with ⟨rfl, e⟩ | ⟨rfl, e⟩ | ⟨rfl, e⟩ | ⟨_, e⟩ <;> rw [e] <;> rfl

theorem encode_decodeWrite (a : HostAddr) (d : Byte) : encode (decodeWrite a d) = .hbus (hbusWord 1#1 a d) := by
  rcases decodeWrite_cases a d with ⟨_, e⟩ | ⟨_, e⟩ | ⟨_, e⟩ | ⟨rfl, e⟩ | ⟨rfl, e⟩ | ⟨rfl, e⟩ | ⟨rfl, e⟩ <;> rw [e]
  case inr.inr.inr.inl => exact encode_decodeCommand d
  all_goals rfl

theorem encode_decodeRead (a : HostAddr) (d : Byte) : encode (decodeRead a d) = .hbus (hbusWord 0#1 a d) := by
  rcases decodeRead_cases a d with ⟨_, e⟩ | ⟨_, e⟩ | ⟨_, e⟩ | ⟨rfl, e⟩ | ⟨rfl, e⟩ | ⟨rfl, e⟩ | ⟨rfl, e⟩ <;>
    rw [e] <;> rfl

/-- No bit of a transaction word is lost. -/
theorem encode_decodeHbus (w : HbusWord) : encode (decodeHbus w) = .hbus w := by
  rcases decodeHbus_cases w with ⟨hw, e⟩ | ⟨hw, e⟩
  · rw [e, encode_decodeWrite, ← hw, hbusWord_fields]
  · rw [e, encode_decodeRead, ← hw, hbusWord_fields]

/-- Settles O3: a transaction by its fields, and the data formats word by word. -/
theorem encodeOfDecodeIsTheWord : Obligations.EncodeOfDecodeIsTheWord := by
  intro cw
  cases cw with
  | hbus w => exact ⟨(Machine.decodeHbus_wf w).1, encode_decodeHbus w⟩
  | cellsel k => revert k; decide
  | hrpix b => revert b; decide
  | mcpix v => revert v; decide

/-! ### The rows of the opcode table -/

/-- A row with a high mask covers a word by the bits above the mask's end, its address ranges and its data range. -/
theorem HbusRow.covers_iff {r : HbusRow} (k : Nat) (hmask : r.mask = BitVec.allOnes 29 <<< k)
    (hlow : r.mtch.toNat % 2 ^ k = 0) (w : HbusWord) :
    r.covers w = true ↔ w.toNat / 2 ^ k = r.mtch.toNat / 2 ^ k
      ∧ (r.addrRanges = [] ∨ ∃ p ∈ r.addrRanges, p.1 ≤ (hbusA w).toNat ∧ (hbusA w).toNat ≤ p.2)
      ∧ ∀ p ∈ r.dataRange, p.1 ≤ (hbusD w).toNat ∧ (hbusD w).toNat ≤ p.2 := by
  rw [← and_highMask_eq_iff 29 k w r.mtch hlow, ← hmask]
  cases hd : r.dataRange <;> simp [HbusRow.covers, inRange, hd, and_assoc]

/-- The words of a host operation, by their fields: 30_encoding.md R103 and the address map of 20_memory.md R61. -/
def Op.selects (o : Op) (w : BitVec 1) (a : HostAddr) (d : Byte) : Prop :=
  match o with
  | .sbPay => w = 1#1 ∧ inPayload a = true
  | .lbPay => w = 0#1 ∧ inPayload a = true
  | .sbRsv => w = 1#1 ∧ inReserved a = true
  | .lbRsv => w = 0#1 ∧ inReserved a = true
  | .sbRas => w = 1#1 ∧ inRaster a = true
  | .lbRas => w = 0#1 ∧ inRaster a = true
  | .cmdNop => w = 1#1 ∧ a = 0x01000#20 ∧ d = 0x00#8
  | .cmdStart => w = 1#1 ∧ a = 0x01000#20 ∧ d = 0x01#8
  | .cmdAck => w = 1#1 ∧ a = 0x01000#20 ∧ d = 0x02#8
  | .cmdRsv => w = 1#1 ∧ a = 0x01000#20 ∧ isReservedCode d = true
  | .lbCmd => w = 0#1 ∧ a = 0x01000#20
  | .sbStatus => w = 1#1 ∧ a = 0x01001#20
  | .lbStatus => w = 0#1 ∧ a = 0x01001#20
  | .sbBa => w = 1#1 ∧ a = 0x01002#20
  | .lbBa => w = 0#1 ∧ a = 0x01002#20
  | .sbBd => w = 1#1 ∧ a = 0x01003#20
  | .lbBd => w = 0#1 ∧ a = 0x01003#20
  | .cellMc | .cellHrNormal | .cellHrInverse | .hrpix0 | .hrpix1 | .mcpix00 | .mcpix01 | .mcpix10 | .mcpix11 => False

/-- The end of a row's mask: it compares the bits from here up. -/
def Op.maskEnd : Op → Nat
  | .sbPay | .lbPay => 20
  | .sbRsv | .lbRsv => 28
  | .sbRas | .lbRas => 25
  | .cmdNop | .cmdStart | .cmdAck => 0
  | _ => 8

theorem hbusTable_highMask : ∀ r ∈ hbusTable,
    r.mask = BitVec.allOnes 29 <<< r.op.maskEnd ∧ r.mtch.toNat % 2 ^ r.op.maskEnd = 0 := by decide

/-- A row covers the words of its operation. -/
theorem hbusTable_covers_iff {r : HbusRow} (hr : r ∈ hbusTable) (w : BitVec 1) (a : HostAddr) (d : Byte) :
    r.covers (hbusWord w a d) = true ↔ r.op.selects w a d := by
  obtain ⟨hmask, hlow⟩ := hbusTable_highMask r hr
  rw [HbusRow.covers_iff _ hmask hlow, hbusWord_toNat, hbusA_hbusWord, hbusD_hbusWord]
  have hw := w.isLt
  have ha := a.isLt
  have hd := d.isLt
  revert r
  simp only [hbusTable, List.cons_append, List.nil_append, List.forall_mem_cons]
  and_intros <;> simp [Op.selects, Op.maskEnd, rsvRanges, inPayload_iff, inReserved_iff, inRaster_iff, isReservedCode,
    BitVec.toNat_eq] <;> omega

theorem selects_decodeCommand (d : Byte) : (decodeCommand d).op.selects 1#1 0x01000#20 d := by
  rcases decodeCommand_cases d with ⟨h, e⟩ | ⟨h, e⟩ | ⟨h, e⟩ | ⟨h, e⟩ <;> rw [e] <;> exact ⟨rfl, rfl, h⟩

theorem selects_decodeWrite (a : HostAddr) (d : Byte) : (decodeWrite a d).op.selects 1#1 a d := by
  rcases decodeWrite_cases a d with ⟨h, e⟩ | ⟨h, e⟩ | ⟨h, e⟩ | ⟨rfl, e⟩ | ⟨h, e⟩ | ⟨h, e⟩ | ⟨h, e⟩ <;> rw [e]
  case inr.inr.inr.inl => exact selects_decodeCommand d
  all_goals exact ⟨rfl, h⟩

theorem selects_decodeRead (a : HostAddr) (d : Byte) : (decodeRead a d).op.selects 0#1 a d := by
  rcases decodeRead_cases a d with ⟨h, e⟩ | ⟨h, e⟩ | ⟨h, e⟩ | ⟨h, e⟩ | ⟨h, e⟩ | ⟨h, e⟩ | ⟨h, e⟩ <;>
    rw [e] <;> exact ⟨rfl, h⟩

/-- An operation selects exactly the words that decode to it. -/
theorem Op.selects_iff (o : Op) (w : BitVec 1) (a : HostAddr) (d : Byte) :
    o.selects w a d ↔ o = (decodeHbus (hbusWord w a d)).op := by
  constructor
  case mp =>
    cases o <;> simp only [Op.selects, and_imp, false_imp_iff] <;> rintro rfl
    case sbPay => intro h; rw [decodeHbus_write, decodeWrite_of_payload d h]; rfl
    case lbPay => intro h; rw [decodeHbus_read, decodeRead_of_payload d h]; rfl
    case sbRsv => intro h; rw [decodeHbus_write, decodeWrite_of_reserved d h]; rfl
    case lbRsv => intro h; rw [decodeHbus_read, decodeRead_of_reserved d h]; rfl
    case sbRas => intro h; rw [decodeHbus_write, decodeWrite_of_raster d h]; rfl
    case lbRas => intro h; rw [decodeHbus_read, decodeRead_of_raster d h]; rfl
    case cmdNop | cmdStart | cmdAck => rintro rfl rfl; rfl
    case cmdRsv => rintro rfl h; rw [decodeHbus_write]; exact congrArg Instr.op (decodeCommand_of_reserved h).symm
    case sbStatus | sbBa | sbBd => rintro rfl; rw [decodeHbus_write]; rfl
    case lbCmd | lbStatus | lbBa | lbBd => rintro rfl; rw [decodeHbus_read]; rfl
  case mpr =>
    rintro rfl
    rcases bit_cases w with rfl | rfl
    · rw [decodeHbus_read]
      exact selects_decodeRead a d
    · rw [decodeHbus_write]
      exact selects_decodeWrite a d

/-- A host operation has exactly one row. -/
theorem hbusTable_row_unique (i : Instr) (hi : i.format = .hbus) :
    (hbusTable.filter (fun r => decide (r.op = i.op))).map (·.op) = [i.op] := by
  cases i with
  | cellMc | cellHrNormal | cellHrInverse | hrpix0 | hrpix1 | mcpix00 | mcpix01 | mcpix10 | mcpix11 => cases hi
  | _ => rfl

/-- Settles O4: a transaction's covering rows are those of its decoded operation, which has one row. -/
theorem exactlyOneTableRowCoversEveryWord : Obligations.ExactlyOneTableRowCoversEveryWord := by
  intro cw
  cases cw with
  | hbus w =>
    have hcovers : hbusTable.filter (·.covers w) = hbusTable.filter fun r => decide (r.op = (decodeHbus w).op) := by
      refine List.filter_congr fun r hr => ?_
      have hiff := (hbusTable_covers_iff hr _ _ _).trans (Op.selects_iff r.op (hbusW w) (hbusA w) (hbusD w))
      rw [hbusWord_fields] at hiff
      exact Bool.eq_iff_iff.mpr (hiff.trans decide_eq_true_iff.symm)
    exact (congrArg (List.map (·.op)) hcovers).trans (hbusTable_row_unique _ (Machine.decodeHbus_wf w).2)
  | cellsel k => revert k; decide
  | hrpix b => revert b; decide
  | mcpix v => revert v; decide

/-- Settles O1: each word is a closed term, decoded by computation. -/
theorem sampleWordsDecodeAsTheSpecLists : Obligations.SampleWordsDecodeAsTheSpecLists := by
  unfold Obligations.SampleWordsDecodeAsTheSpecLists
  decide

end Sys2Proof
end

section
/-! SUPPORT. One CELL_STEP in the terms of the closed form: the slots its operation gives, the colour of each pixel, and
all the step leaves alone (41_cell_setup.md R141 to R143, 42_pixel_expansion.md R160 to R173). -/

namespace Sys2Proof.Machine

/-! ### The slots of a cell -/

/-- A multicolor cell's slots after its operation (R141). -/
theorem State.operatedRegs_of_multicolor {s : State} (hn : s.cellNibble.getLsbD 3 = true) :
    s.operatedRegs
      = { s.unadjustedRegs with
          s1 := pal (zext4 (fieldC2 s.lba)), s2 := pal (zext4 (nibbleColour s.cellNibble)), s3 := s.slot3 } := by
  unfold State.operatedRegs
  dsimp only
  rw [if_pos (s.setupRegs_mc.trans hn), State.setupRegs_of_multicolor hn]
  rfl

/-- A normal hi-res cell's slots after its operation (R142). -/
theorem State.operatedRegs_of_normal {s : State} (hn : s.cellNibble.getLsbD 3 = false) (ha : s.lba.getLsbD 3 = true) :
    s.operatedRegs = { s.unadjustedRegs with s3 := s.slot3 } := by
  unfold State.operatedRegs
  dsimp only
  rw [if_neg (ne_true_of_eq_false (s.setupRegs_mc.trans hn)), if_pos ((fieldNRM_eq_one s.lba).mpr ha),
    State.setupRegs_keeps]
  rfl

/-- An inverse hi-res cell's slots after its operation (R143). -/
theorem State.operatedRegs_of_inverse {s : State} (hn : s.cellNibble.getLsbD 3 = false) (ha : s.lba.getLsbD 3 = false) :
    s.operatedRegs
      = { s.unadjustedRegs with s0 := s.unadjustedRegs.s1, s1 := s.unadjustedRegs.s0, s3 := s.slot3 } := by
  have hnrm : fieldNRM s.lba ≠ 1#1 := by rw [Ne, fieldNRM_eq_one, ha]; exact Bool.false_ne_true
  unfold State.operatedRegs
  dsimp only
  rw [if_neg (ne_true_of_eq_false (s.setupRegs_mc.trans hn)), if_neg hnrm, State.setupRegs_keeps]
  rfl

/-- SLOT_ADJUST and the cell operation agree where `INV` is what FRAME_SETUP computes from `LBA` (R131). -/
theorem State.operatedRegs_eq_setupRegs {s : State} (hinv : s.inv = !s.lba.getLsbD 3) :
    s.operatedRegs = s.setupRegs := by
  cases hn : s.cellNibble.getLsbD 3 with
  | true => rw [State.operatedRegs_of_multicolor hn, State.setupRegs_of_multicolor hn]; rfl
  | false =>
    cases ha : s.lba.getLsbD 3 with
    | true => rw [State.operatedRegs_of_normal hn ha, State.setupRegs_of_normal hn (by rw [hinv, ha]; rfl)]
    | false => rw [State.operatedRegs_of_inverse hn ha, State.setupRegs_of_inverse hn (by rw [hinv, ha]; rfl)]

/-- Settles O28: the operation answers `State.operatedRegs`, which are the adjusted registers. -/
theorem cellOperationAgreesWithSlotAdjust : Obligations.CellOperationAgreesWithSlotAdjust := by
  intro s hinv
  rw [cellOperation_cellSetup, State.operatedRegs_eq_setupRegs hinv]
  rfl

/-! ### The colour of a pixel -/

/-- The cell a pixel belongs to, by pixel index (10_state.md R23, R38). -/
def pixelCell (p : Nat) : Nat := 20 * (p / 160 / 16) + p % 160 / 8

theorem pixelCell_pixel {x : Nat} (hx : x < 160) (y : Nat) : pixelCell (160 * y + x) = 20 * (y / 16) + x / 8 := by
  unfold pixelCell
  omega

theorem pixelCell_lt_iff (p : Nat) : pixelCell p < 240 ↔ p < 30720 := by
  unfold pixelCell
  omega

theorem inCell_iff {x1 : Nat} (hx : x1 < 20) (y1 p : Nat) : InCell x1 y1 p ↔ pixelCell p = 20 * y1 + x1 := by
  unfold InCell InRow pixelIndex pixelCell
  constructor
  · rintro ⟨y2, hy2, x2, hx2, rfl⟩
    omega
  · intro h
    exact ⟨p / 160 % 16, by omega, p % 160 % 8, by omega, by omega⟩

theorem inCell_current_iff (c : Byte) (p : Nat) : InCell (cellCol c) (cellRow c) p ↔ pixelCell p = c.toNat := by
  rw [inCell_iff (x1 := cellCol c) (Nat.mod_lt _ (by decide)), cellRow, cellCol, Nat.div_add_mod]

/-- The colour a run under the latches of `s` gives a pixel: the picture of the pixel's cell. -/
def State.pixelColour (s : State) (p : Nat) : Rgb :=
  cellPicture ({ s with c := BitVec.ofNat 8 (pixelCell p), cell := CellRegs.idle } : State).operatedRegs s.payByte
    (pixelCell p % 20) (pixelCell p / 20) p

/-- The cell operation's slots do not depend on the working registers before. -/
theorem cellPixel_operatedRegs_setCell (s : State) (r : CellRegs) (bm : Byte) (x2 : Nat) :
    cellPixel (s.setCell r).operatedRegs bm x2 = cellPixel s.operatedRegs bm x2 := by
  cases hn : s.cellNibble.getLsbD 3 with
  | true =>
    rw [State.operatedRegs_of_multicolor hn, State.operatedRegs_of_multicolor (s := s.setCell r) hn]
    rfl
  | false =>
    cases ha : s.lba.getLsbD 3 with
    | true =>
      rw [State.operatedRegs_of_normal hn ha, State.operatedRegs_of_normal (s := s.setCell r) hn ha]
      rfl
    | false =>
      rw [State.operatedRegs_of_inverse hn ha, State.operatedRegs_of_inverse (s := s.setCell r) hn ha]
      rfl

/-- The picture of the current cell has the run's colours. -/
theorem cellPicture_current {s : State} {p : Nat} (hp : pixelCell p = s.c.toNat) :
    cellPicture s.operatedRegs s.payByte (cellCol s.c) (cellRow s.c) p = s.pixelColour p := by
  unfold State.pixelColour
  rw [hp, BitVec.ofNat_toNat, BitVec.setWidth_eq]
  exact (cellPixel_operatedRegs_setCell s CellRegs.idle _ _).symm

/-- The colours of a run depend on the payload, `LBA`, `INV` and `SLOT3` alone. -/
theorem State.pixelColour_congr {s s' : State} (hpay : s.pay = s'.pay) (hlba : s.lba = s'.lba) (hinv : s.inv = s'.inv)
    (hslot : s.slot3 = s'.slot3) : s.pixelColour = s'.pixelColour := by
  cases s
  cases s'
  subst hpay hlba hinv hslot
  rfl

/-! ### The closed form -/

/-- A masked shift reads a bit field. -/
theorem shift_and_three (bm : Byte) (k : Nat) : (bm >>> k) &&& 3#8 = (bm.extractLsb' k 2).setWidth 8 := by
  apply BitVec.eq_of_toNat_eq
  have hmod (n : Nat) : n % 4 < 256 := by omega
  simp [Nat.and_two_pow_sub_one_eq_mod _ 2, Nat.mod_eq_of_lt, hmod]

theorem shift_and_one (bm : Byte) (k : Nat) : (bm >>> k) &&& 1#8 = (bm.extractLsb' k 1).setWidth 8 := by
  apply BitVec.eq_of_toNat_eq
  have hmod (n : Nat) : n % 2 < 256 := by omega
  simp [Nat.and_two_pow_sub_one_eq_mod _ 1, Nat.mod_eq_of_lt, hmod]

/-- A multicolor code's colour by the masked shift of R173. -/
theorem mcColour_mcCode (r : CellRegs) (bm : Byte) {x2 : Nat} (hx : x2 < 8) :
    mcColour r (mcCode bm (x2 / 2 * 2))
      = let v := (bm >>> (6 - (x2 &&& 6))) &&& 3#8
        if v = 0#8 then r.s0 else if v = 1#8 then r.s1 else if v = 2#8 then r.s2 else r.s3 := by
  have heven : ∀ k, k < 8 → k &&& 6 = k / 2 * 2 := by decide
  have hcodes : ∀ v : BitVec 2, v = 0b00#2 ∨ v = 0b01#2 ∨ v = 0b10#2 ∨ v = 0b11#2 := by decide
  dsimp only
  rw [heven x2 hx, shift_and_three, ← mcCode]
  rcases hcodes (mcCode bm (x2 / 2 * 2)) with h | h | h | h <;> rw [h] <;> rfl

/-- A hi-res code's colour by the masked shift of R173. -/
theorem hrColour_shift (r : CellRegs) (bm : Byte) (x2 : Nat) :
    hrColour r (hrCode bm x2) = if (bm >>> (7 - x2)) &&& 1#8 = 0#8 then r.s0 else r.s1 := by
  rw [shift_and_one, ← hrCode]
  rcases bit_cases (hrCode bm x2) with h | h <;> rw [h] <;> rfl

theorem State.operatedRegs_mc (s : State) : s.operatedRegs.mc = s.cellNibble.getLsbD 3 := by
  rw [← State.setupRegs_mc]
  unfold State.operatedRegs
  dsimp only
  split
  · rfl
  · split <;> rfl

/-- The picture of the current cell is the closed form, where `SLOT3` is what FRAME_SETUP computes from `LBD` (R132). -/
theorem cellPicture_eq_dec {s : State} {x y : Nat} (hslot : s.slot3 = pal (s.lbd.extractLsb' 4 4)) (hx : x < 160)
    (hcell : 20 * (y / 16) + x / 8 = s.c.toNat) :
    cellPicture s.operatedRegs s.payByte (cellCol s.c) (cellRow s.c) (160 * y + x) = dec s.payByte s.lba s.lbd x y := by
  have hcol : cellCol s.c = x / 8 := by unfold cellCol; omega
  have hrow : cellRow s.c = y / 16 := by unfold cellRow; omega
  have hx2 : (160 * y + x) % 160 % 8 = x % 8 := by omega
  have hbm : bmOff (x / 8) (y / 16) ((160 * y + x) / 160 % 16) = 192 * (x / 8) + y := by unfold bmOff; omega
  have hcm : s.cellMapByte = s.payByte (3840 + 10 * (y / 16) + x / 8 / 2) := by
    have hoff : cmOff (x / 8) (y / 16) = 3840 + 10 * (y / 16) + x / 8 / 2 := by unfold cmOff; omega
    rw [State.cellMapByte, hcol, hrow, hoff]
  have hn : nibbleSelect (s.payByte (3840 + 10 * (y / 16) + x / 8 / 2)) (x / 8) = s.cellNibble := by
    rw [State.cellNibble, hcm, hcol]
  have hx8 : x % 8 < 8 := Nat.mod_lt _ (by decide)
  rw [cellPicture, hcol, hrow, hbm, hx2, cellPixel, State.operatedRegs_mc, mcColour_mcCode _ _ hx8, hrColour_shift]
  unfold dec
  dsimp only
  rw [← hslot, ← nibbleSelect, hn]
  cases hmc : s.cellNibble.getLsbD 3 with
  | true =>
    rw [State.operatedRegs_of_multicolor hmc]
    rfl
  | false =>
    cases ha : s.lba.getLsbD 3 with
    | true =>
      rw [State.operatedRegs_of_normal hmc ha]
      rfl
    | false =>
      rw [State.operatedRegs_of_inverse hmc ha]
      rfl

/-- A run's colours are the closed form's. -/
theorem State.pixelColour_eq_dec {s : State} {x y : Nat} (hslot : s.slot3 = pal (s.lbd.extractLsb' 4 4)) (hx : x < 160)
    (hy : y < 192) : s.pixelColour (160 * y + x) = dec s.payByte s.lba s.lbd x y := by
  have hcell : 20 * (y / 16) + x / 8 = (BitVec.ofNat 8 (20 * (y / 16) + x / 8)).toNat := by
    rw [BitVec.toNat_ofNat, Nat.mod_eq_of_lt (by omega)]
  have ht := cellPicture_eq_dec (s := { s with c := BitVec.ofNat 8 (20 * (y / 16) + x / 8) }) hslot hx hcell
  rwa [cellPicture_current (by rw [pixelCell_pixel hx]; exact hcell)] at ht

/-! ### CELL_STEP -/

/-- The end of a cell during a run: the counter advances, and after the last cell the run is complete. -/
theorem finishCell_busy {s : State} (hb : s.busy = true) (hc : s.c.toNat < 240) :
    s.finishCell
      = { s with cell := CellRegs.idle, c := s.c + 1#8, busy := decide (s.c.toNat < 239),
                 done := if s.c.toNat = 239 then true else s.done,
                 rv := if s.c.toNat = 239 then true else s.rv } := by
  rcases (by omega : s.c.toNat < 239 ∨ s.c.toNat = 239) with hmore | hlast
  · rw [finishCell_more hmore]
    simp [hmore, Nat.ne_of_lt hmore, hb]
  · have hnext : s.c + 1#8 = 240#8 := by
      rw [show s.c = 239#8 from BitVec.eq_of_toNat_eq hlast]
      rfl
    rw [finishCell_last hlast]
    simp [hlast, hnext]

/-- From `s` to `t` the engine has decoded the cells from `c` of `s` up to `c` of `t`: their pixels have the run's
colours, the run is complete when no cell remains, and all else is as it was. -/
structure CellsDecoded (s t : State) : Prop where
  keeps : t = { s with ras := t.ras, cell := t.cell, c := t.c, busy := decide (t.c.toNat < 240),
                       done := if t.c.toNat < 240 then s.done else true,
                       rv := if t.c.toNat < 240 then s.rv else true }
  counts : s.c.toNat ≤ t.c.toNat
  bounded : t.c.toNat ≤ 240
  inside : ∀ p k, s.c.toNat ≤ pixelCell p → pixelCell p < t.c.toNat → k < 3 →
    t.ras.read? (rasOff p k) = some (component (s.pixelColour p) k)
  outside : ∀ q, ¬ (s.c.toNat ≤ pixelCell (q / 3) ∧ pixelCell (q / 3) < t.c.toNat) → t.ras.read? q = s.ras.read? q
  wf : s.ras.wf → t.ras.wf
  below : s.ras.below 92160 → t.ras.below 92160

/-- CELL_STEP decodes one cell. -/
theorem cellStep_decodes {s : State} (hb : s.busy = true) (hc : s.c.toNat < 240) :
    ∃ t, cellStep s = .next t ∧ t.c.toNat = s.c.toNat + 1 ∧ t.cell = CellRegs.idle ∧ CellsDecoded s t := by
  obtain ⟨u, hu, hp⟩ := cellStep_paints s
  obtain ⟨hflags, huc⟩ := hp.sameFlags
  have hcount : u.finishCell.c.toNat = s.c.toNat + 1 := by
    rw [State.finishCell_c, huc, BitVec.toNat_add]
    exact Nat.mod_eq_of_lt (by simp; omega)
  have honly (p : Nat) : s.c.toNat ≤ pixelCell p ∧ pixelCell p < u.finishCell.c.toNat
      ↔ InCell (cellCol s.c) (cellRow s.c) p := by
    rw [inCell_current_iff, hcount]
    omega
  refine ⟨u.finishCell, hu, hcount, u.finishCell_cell, ?keeps, by omega, by omega, fun p k hle hlt hk => ?inside,
    fun q hq => ?outside, fun hwf => ?wf, fun hbelow => ?below⟩
  case keeps =>
    rw [hcount, finishCell_busy (hflags.busy.trans hb) (huc ▸ hc), huc, hp.keeps]
    have h : s.c.toNat + 1 < 240 ↔ s.c.toNat < 239 := by omega
    rcases (by omega : s.c.toNat < 239 ∨ s.c.toNat = 239) with hmore | hlast
    · simp [h, hmore, Nat.ne_of_lt hmore]
    · simp [hlast]
  case inside =>
    have hin := (honly p).mp ⟨hle, hlt⟩
    rw [State.finishCell_ras, hp.inside p k hin hk, cellPicture_current ((inCell_current_iff s.c p).mp hin)]
  case outside =>
    rw [State.finishCell_ras]
    exact hp.outside q fun hin => hq ((honly _).mpr hin)
  case wf =>
    rw [State.finishCell_ras]
    exact hp.wf hwf
  case below =>
    rw [State.finishCell_ras]
    refine hp.below (fun p hin => ?_) hbelow
    rw [← pixelCell_lt_iff, (inCell_current_iff s.c p).mp hin]
    exact hc

/-- The decoded pixels read as the run's colours. -/
theorem CellsDecoded.rasPixel {s t : State} (h : CellsDecoded s t) {p : Nat} (hle : s.c.toNat ≤ pixelCell p)
    (hlt : pixelCell p < t.c.toNat) : t.rasPixel p = s.pixelColour p := by
  simp only [State.rasPixel, State.rasByte]
  rw [h.inside p 0 hle hlt (by omega), h.inside p 1 hle hlt (by omega), h.inside p 2 hle hlt (by omega)]
  exact components_append (s.pixelColour p)

/-- Settles O31: the step decodes its one cell, whose colours are the closed form's. -/
theorem cellStepDecodesOneCellAndNothingElse : Obligations.CellStepDecodesOneCellAndNothingElse := by
  intro s hb hc _ hslot
  obtain ⟨t, ht, hcount, hidle, hd⟩ := cellStep_decodes hb hc
  refine ⟨t, ht, fun x y hx hy hcell => ?inside, fun q hq => ?outside, ?keeps⟩
  case inside =>
    have hp : pixelCell (160 * y + x) = s.c.toNat := (pixelCell_pixel hx y).trans hcell
    rw [hd.rasPixel (by omega) (by omega), State.pixelColour_eq_dec hslot hx hy]
  case outside =>
    refine hd.outside q fun hin => ?_
    have hp : pixelCell (q / 3) = s.c.toNat := by omega
    unfold pixelCell at hp
    exact hq (q / 3 % 160) (q / 3 / 160) (by omega) (by omega) (by omega) (by omega)
  case keeps =>
    have hcb : t.c = s.c + 1#8 := by
      apply BitVec.eq_of_toNat_eq
      rw [hcount, BitVec.toNat_add]
      exact (Nat.mod_eq_of_lt (by simp; omega)).symm
    rw [hd.keeps, hcount, hidle, hcb]
    rcases (by omega : s.c.toNat < 239 ∨ s.c.toNat = 239) with hmore | hlast
    · simp [hmore, Nat.ne_of_lt hmore, show s.c.toNat + 1 < 240 by omega]
    · simp [hlast]

/-- CELL_STEP after its cell operation: the scanline loop and the end of the cell. -/
theorem cellStep_eq (s : State) :
    cellStep s
      = andThen (scanlines (cellCol s.c) (cellRow s.c) (s.setCell s.operatedRegs)) fun u => .next u.finishCell := by
  rw [cellStep, cellOperation_cellSetup, andThen_next]

/-- A multicolor cell's slots read neither `INV` nor `LBA[3]`. -/
theorem operatedRegs_multicolor_congr {s : State} {a : Byte} (i : Bool) (hn : s.cellNibble.getLsbD 3 = true)
    (hbg : fieldBG a = fieldBG s.lba) (hlo : fieldC2 a = fieldC2 s.lba) :
    ({ s with lba := a, inv := i } : State).operatedRegs = s.operatedRegs := by
  rw [State.operatedRegs_of_multicolor hn, State.operatedRegs_of_multicolor (s := { s with lba := a, inv := i }) hn]
  simp only [State.unadjustedRegs, hbg, hlo]
  rfl

/-- Settles O32: the two cells have the same slots, and the scanline loop reads nothing else of the latches. -/
theorem inverseHasNoEffectOnMulticolorCells : Obligations.InverseHasNoEffectOnMulticolorCells := by
  intro s a i hbg hlo hmc
  have hregs := operatedRegs_multicolor_congr i (s.setupRegs_mc.symm.trans hmc) hbg hlo
  obtain ⟨m, r, e, e'⟩ := scanlines_readsOnlyWork (cellCol s.c) (cellRow s.c) (s.setCell s.operatedRegs)
    (({ s with lba := a, inv := i } : State).setCell ({ s with lba := a, inv := i } : State).operatedRegs)
    rfl rfl hregs.symm
  refine ⟨_, _, (cellStep_eq s).trans (by rw [e, andThen_next]), (cellStep_eq _).trans (by rw [e', andThen_next]), ?_⟩
  rw [State.finishCell_ras, State.finishCell_ras]

/-! ### Inverse rows -/

/-- A pixel's colour is read from its three bytes. -/
theorem State.rasPixel_congr {s t : State} {p : Nat} (h : ∀ q, q / 3 = p → t.ras.read? q = s.ras.read? q) :
    t.rasPixel p = s.rasPixel p := by
  have hbyte (k : Nat) (hk : k < 3) : t.rasByte (rasOff p k) = s.rasByte (rasOff p k) := by
    rw [State.rasByte, State.rasByte, h _ (rasOff_div p k hk)]
  rw [State.rasPixel, hbyte 0 (by omega), hbyte 1 (by omega), hbyte 2 (by omega)]
  rfl

/-- Two rows written with the same colours on the same raster read alike. -/
theorem RowWritten.rasPixel_eq {x1 y1 y2 : Nat} {s t s' t' : State} {colour colour' : Nat → Rgb}
    (h : RowWritten x1 y1 y2 s t colour) (h' : RowWritten x1 y1 y2 s' t' colour') (hras : s.ras = s'.ras)
    (hc : ∀ x2, x2 < 8 → colour x2 = colour' x2) (p : Nat) : t.rasPixel p = t'.rasPixel p := by
  by_cases hp : ∃ x2, x2 < 8 ∧ p = 160 * (16 * y1 + y2) + (8 * x1 + x2)
  · obtain ⟨x2, hx, rfl⟩ := hp
    rw [h.pixel x2 hx, h'.pixel x2 hx, hc x2 hx]
  · have hout : ∀ q, q / 3 = p → ∀ x2, x2 < 8 → q / 3 ≠ 160 * (16 * y1 + y2) + (8 * x1 + x2) :=
      fun q hq x2 hx he => hp ⟨x2, hx, hq.symm.trans he⟩
    refine State.rasPixel_congr fun q hq => ?_
    rw [h.outside q (hout q hq), h'.outside q (hout q hq), hras]

/-- With slots 0 and 1 exchanged, the complemented byte gives each column the same colour. -/
theorem hrColour_complement {r r' : CellRegs} (h0 : r'.s0 = r.s1) (h1 : r'.s1 = r.s0) (bm : Byte) {x2 : Nat}
    (hx : x2 < 8) : hrColour r' (hrCode (~~~bm) x2) = hrColour r (hrCode bm x2) := by
  have hbit : (~~~bm).getLsbD (7 - x2) = !bm.getLsbD (7 - x2) := by
    rw [BitVec.getLsbD_not, decide_eq_true (by omega), Bool.true_and]
  rw [hrColour_hrCode, hrColour_hrCode, hbit, h0, h1]
  cases bm.getLsbD (7 - x2) <;> rfl

/-- Settles O33: complementing the byte exchanges the two colours, and so does the inverse cell's operation. -/
theorem inverseSwapsTheColoursOfHiResRows : Obligations.InverseSwapsTheColoursOfHiResRows := by
  intro x1 y1 y2 s bm
  obtain ⟨n, hn⟩ : ∃ n, exec .cellHrNormal { s with cell := { s.cell with bm := bm } } = .next n := ⟨_, rfl⟩
  obtain ⟨i, hi⟩ : ∃ i, exec .cellHrInverse { s with cell := { s.cell with bm := ~~~bm } } = .next i := ⟨_, rfl⟩
  obtain ⟨t, ht, hrow⟩ := hrRowExpand_writes x1 y1 y2 n
  obtain ⟨t', ht', hrow'⟩ := hrRowExpand_writes x1 y1 y2 i
  cases hn
  cases hi
  exact ⟨t, t', ht, ht', hrow.rasPixel_eq hrow' rfl fun _ hx => (hrColour_complement rfl rfl bm hx).symm⟩

/-! ### The operations one by one -/

/-- Settles O25: each operation answers `State.setSlots` of its four colours. -/
theorem cellOperationsGiveTheirSlots : Obligations.CellOperationsGiveTheirSlots := fun _ _ => ⟨rfl, rfl, rfl⟩

/-- Settles O26: each code answers `State.setCol` of its slot. -/
theorem pixelCodesSelectTheirSlots : Obligations.PixelCodesSelectTheirSlots := fun _ => ⟨rfl, rfl, rfl, rfl, rfl, rfl⟩

/-- Settles O7: the body of each row is the decoded code and the write. -/
theorem rowPixelsRunTheDecodedCodes : Obligations.RowPixelsRunTheDecodedCodes := fun _ _ _ _ _ => ⟨rfl, rfl⟩

/-- Settles O6: the enabled engine's turn is CELL_STEP, whose parts the statement names. -/
theorem engineTurnRunsTheDecodedCellOperation : Obligations.EngineTurnRunsTheDecodedCellOperation := by
  intro s hturn hb hc
  have hstep : step s = cellStep s.popTurn := by
    rw [step, hturn]
    exact engineTurn_enabled hb hc
  rw [hstep]
  rfl

end Sys2Proof.Machine
end

section
/-! SUPPORT. Runs of the engine: any number of turns decodes that many cells, and what follows for a whole run
(42_pixel_expansion.md section 5, 70_reset_and_hazards.md section 4). -/

namespace Sys2Proof.Machine

/-! ### Any number of turns -/

theorem andThen_assoc (r : Result) (f g : State → Result) :
    andThen (andThen r f) g = andThen r fun s => andThen (f s) g := by
  cases r <;> rfl

/-- A run of one turn more ends with that turn. -/
theorem engineRun_succ_last (k : Nat) (s : State) : engineRun (k + 1) s = andThen (engineRun k s) engineTurn := by
  induction k generalizing s with
  | zero =>
    cases h : engineTurn s <;> simp [engineRun_succ, h]
  | succ k ih =>
    rw [engineRun_succ, engineRun_succ k, andThen_assoc]
    exact congrArg _ (funext ih)

/-- No cell is decoded yet. -/
theorem CellsDecoded.refl {s : State} (hb : s.busy = true) (hc : s.c.toNat < 240) : CellsDecoded s s where
  keeps := by simp [hc, ← hb]
  counts := Nat.le_refl _
  bounded := by omega
  inside := fun _ _ hle hlt => absurd hle (by omega)
  outside := fun _ _ => rfl
  wf := id
  below := id

/-- A run keeps the payload and the latches, so the colours it gives. -/
theorem CellsDecoded.pixelColour {s t : State} (h : CellsDecoded s t) : t.pixelColour = s.pixelColour := by
  rw [h.keeps]
  exact State.pixelColour_congr rfl rfl rfl rfl

/-- Cells decoded on, one after the other. -/
theorem CellsDecoded.trans {s t u : State} (h : CellsDecoded s t) (h' : CellsDecoded t u) : CellsDecoded s u where
  keeps := by
    have hc := h'.counts
    have e := h'.keeps
    rw [h.keeps] at e
    rcases Nat.lt_or_ge u.c.toNat 240 with hu | hu
    · simpa only [hu, Nat.lt_of_le_of_lt hc hu, if_true] using e
    · simpa only [Nat.not_lt.mpr hu, if_false] using e
  counts := h.counts.trans h'.counts
  bounded := h'.bounded
  inside := fun p k hle hlt hk => by
    rcases Nat.lt_or_ge (pixelCell p) t.c.toNat with hp | hp
    · rw [h'.outside _ (by rw [rasOff_div p k hk]; omega), h.inside p k hle hp hk]
    · rw [h'.inside p k hp hlt hk, h.pixelColour]
  outside := fun q hq => by
    have hc := h.counts
    have hc' := h'.counts
    rw [h'.outside q (by omega), h.outside q (by omega)]
  wf := h'.wf ∘ h.wf
  below := h'.below ∘ h.below

/-- As many turns as cells remain, or fewer, decode as many cells. -/
theorem engineRun_decodes {s : State} (hb : s.busy = true) (hc : s.c.toNat < 240) (k : Nat) (hk : s.c.toNat + k ≤ 240) :
    ∃ t, engineRun k s = .next t ∧ t.c.toNat = s.c.toNat + k ∧ CellsDecoded s t := by
  induction k with
  | zero => exact ⟨s, rfl, rfl, CellsDecoded.refl hb hc⟩
  | succ k ih =>
    obtain ⟨t, ht, hcount, hd⟩ := ih (by omega)
    have hbt : t.busy = true := by
      rw [hd.keeps]
      exact decide_eq_true (by omega)
    obtain ⟨u, hu, hcount', _, hd'⟩ := cellStep_decodes hbt (by omega)
    refine ⟨u, ?_, by omega, hd.trans hd'⟩
    rw [engineRun_succ_last, ht, andThen_next, engineTurn_enabled hbt (by omega), hu]

/-! ### Whole runs -/

/-- An accepted START (43_host_interface.md R194). -/
theorem exec_cmdStart_accepted {s : State} (hb : s.busy = false) (hw : s.inputsWritten = true) :
    exec .cmdStart s = .next s.frameSetup.beginRun := by
  rw [exec_cmdStart_of_idle hb, if_pos hw]

/-- A byte of the raster window lies in a pixel of one of the 240 cells. -/
theorem pixelCell_byte_lt {q : Nat} (hq : q < 92160) : pixelCell (q / 3) < 240 := by
  rw [pixelCell_lt_iff]
  omega

/-- A byte of a decoded cell holds a component of its pixel's colour. -/
theorem CellsDecoded.read? {s t : State} (h : CellsDecoded s t) {q : Nat} (hle : s.c.toNat ≤ pixelCell (q / 3))
    (hlt : pixelCell (q / 3) < t.c.toNat) : t.ras.read? q = some (component (s.pixelColour (q / 3)) (q % 3)) := by
  have hin := h.inside (q / 3) (q % 3) hle hlt (Nat.mod_lt _ (by decide))
  rwa [rasOff, Nat.div_add_mod] at hin

/-- Settles O34: START leaves the latches of the closed form, and 240 turns decode every cell. -/
theorem aRunDecodesTheInputsAtStart : Obligations.ARunDecodesTheInputsAtStart := by
  intro s hb hba hbd hpay
  obtain ⟨t, ht, hcount, hd⟩ := engineRun_decodes (s := s.frameSetup.beginRun) rfl (by simp) 240 (by simp)
  have hc : t.c.toNat = 240 := hcount
  have hstart := exec_cmdStart_accepted hb (s.inputsWritten_iff.mpr ⟨hba, hbd, hpay⟩)
  refine ⟨t, by rw [hstart, andThen_next, ht], fun x y hx hy => ?pixels, fun q hq => ?written, ?_⟩
  case pixels =>
    have hcell : pixelCell (160 * y + x) < t.c.toNat := by
      rw [pixelCell_pixel hx, hc]
      omega
    rw [hd.rasPixel (Nat.zero_le _) hcell, State.pixelColour_eq_dec rfl hx hy]
    rfl
  case written =>
    rw [hd.read? (Nat.zero_le _) (hc ▸ pixelCell_byte_lt hq)]
    rfl
  · have hend : ¬ t.c.toNat < 240 := by omega
    rw [hd.keeps]
    simp [hend]

/-- Above the raster window a canonical raster holds nothing. -/
theorem Memory.read?_none_of_below {m : Memory} {n q : Nat} (h : m.below n) (hq : n ≤ q) : m.read? q = none := by
  cases hr : m.read? q with
  | none => rfl
  | some v => exact absurd (h _ (Memory.mem_of_read? hr)) (Nat.not_lt.mpr hq)

/-- Settles O35: the two rasters are canonical and read alike, byte by byte. -/
theorem theRasterIsAFunctionOfTheInputs : Obligations.TheRasterIsAFunctionOfTheInputs := by
  intro s s' hb hb' hc hc' hpay hlba _ hinv hslot hwf hwf' hbelow hbelow'
  have hz : s.c.toNat = 0 := by rw [hc]; rfl
  have hz' : s'.c.toNat = 0 := by rw [hc']; rfl
  obtain ⟨t, ht, hcount, hd⟩ := engineRun_decodes hb (by omega) 240 (by omega)
  obtain ⟨t', ht', hcount', hd'⟩ := engineRun_decodes hb' (by omega) 240 (by omega)
  refine ⟨t, t', ht, ht', Memory.ext_of_wf (hd.wf hwf) (hd'.wf hwf') fun q => ?_⟩
  rcases Nat.lt_or_ge q 92160 with hq | hq
  · have hcell := pixelCell_byte_lt hq
    rw [hd.read? (by omega) (by omega), hd'.read? (by omega) (by omega), State.pixelColour_congr hpay hlba hinv hslot]
  · rw [Memory.read?_none_of_below (hd.below hbelow) hq, Memory.read?_none_of_below (hd'.below hbelow') hq]

/-! ### The control registers -/

theorem finishCell_of_last {s : State} (h : (s.c + 1#8).toNat = 240) :
    s.finishCell = (s.setCell CellRegs.idle).advanceCell.complete := if_pos h

theorem finishCell_of_more {s : State} (h : (s.c + 1#8).toNat ≠ 240) :
    s.finishCell = (s.setCell CellRegs.idle).advanceCell := if_neg h

/-- The end of a cell neither reads nor writes `BA` and `BD`. -/
theorem finishCell_setControl (s : State) (a d : Byte) :
    ({ s with ba := a, bd := d } : State).finishCell = { s.finishCell with ba := a, bd := d } := by
  by_cases h : (s.c + 1#8).toNat = 240
  · rw [finishCell_of_last h, finishCell_of_last (s := { s with ba := a, bd := d }) h]
    rfl
  · rw [finishCell_of_more h, finishCell_of_more (s := { s with ba := a, bd := d }) h]
    rfl

/-- A turn of the engine reads neither `BA` nor `BD`. -/
theorem engineTurn_setControl (s : State) (a d : Byte) :
    ∃ t, engineTurn s = .next t ∧ engineTurn { s with ba := a, bd := d } = .next { t with ba := a, bd := d } := by
  cases hen : engineEnabled s with
  | false => exact ⟨s, by simp [engineTurn, hen], if_neg (ne_true_of_eq_false hen)⟩
  | true =>
    obtain ⟨m, r, e, e'⟩ := scanlines_readsOnlyWork (cellCol s.c) (cellRow s.c) (s.setCell s.operatedRegs)
      (({ s with ba := a, bd := d } : State).setCell s.operatedRegs) rfl rfl rfl
    refine ⟨_, (if_pos hen).trans ((cellStep_eq s).trans (by rw [e, andThen_next])), ?_⟩
    rw [← finishCell_setControl]
    exact (if_pos hen).trans ((cellStep_eq _).trans (congrArg (andThen · _) e'))

/-- Settles O36: by induction on the number of turns. -/
theorem controlWritesDoNotReachTheRunInProgress : Obligations.ControlWritesDoNotReachTheRunInProgress := by
  intro k s a d
  induction k generalizing s with
  | zero => exact ⟨s, rfl, rfl⟩
  | succ k ih =>
    obtain ⟨t, ht, ht'⟩ := engineTurn_setControl s a d
    obtain ⟨u, hu, hu'⟩ := ih t
    exact ⟨u, by rw [engineRun_succ, ht, andThen_next, hu], by rw [engineRun_succ, ht', andThen_next, hu']⟩

/-! ### Runs of the machine -/

/-- With an empty schedule a step of a run is the engine's turn (70_reset_and_hazards.md R281; log 1). -/
theorem step_of_run {s : State} (hs : s.sched = []) (hb : s.busy = true) (hc : s.c.toNat < 240) :
    step s = engineTurn s := by
  have hturn : s.nextTurn = .engine := by simp [State.nextTurn, hs, engineEnabled, hb, hc]
  have hpop : s.popTurn = s := by
    rw [State.popTurn, hs]
    exact congrArg s.setSched hs.symm
  rw [step, hturn, hpop]
  rfl

/-- While cells remain, the machine's steps are the engine's turns. -/
theorem run_eq_engineRun {s : State} (hs : s.sched = []) (hb : s.busy = true) (hc : s.c.toNat < 240) (k : Nat)
    (hk : s.c.toNat + k ≤ 240) : Host.Core.run core k s = engineRun k s := by
  induction k generalizing s with
  | zero => rfl
  | succ k ih =>
    obtain ⟨t, ht, hcount, _, hd⟩ := cellStep_decodes hb hc
    have hturn : engineTurn s = .next t := (engineTurn_enabled hb hc).trans ht
    have hrun : Host.Core.run core (k + 1) s = Host.Core.run core k t := by
      have hstep : core.step s = .next t := (step_of_run hs hb hc).trans hturn
      simp only [Host.Core.run, hstep]
    rw [hrun, engineRun_succ, hturn, andThen_next]
    cases k with
    | zero => rfl
    | succ k =>
      have hsched : t.sched = [] := by rw [hd.keeps]; exact hs
      have hbusy : t.busy = true := by rw [hd.keeps]; exact decide_eq_true (by omega)
      exact ih hsched hbusy (by omega) (by omega)

/-- Settles O37: the steps are the engine's turns, each of which decodes one of the remaining cells. -/
theorem aRunEndsAfterItsRemainingCells : Obligations.ARunEndsAfterItsRemainingCells := by
  intro s hs hb hc
  refine ⟨?_, fun k hk => ?_⟩
  · obtain ⟨t, ht, hcount, hd⟩ := engineRun_decodes hb hc (240 - s.c.toNat) (by omega)
    have hend : t.c.toNat = 240 := by omega
    have hcb : t.c = 240#8 := BitVec.eq_of_toNat_eq hend
    refine ⟨t, (run_eq_engineRun hs hb hc _ (by omega)).trans ht, ?_⟩
    rw [hd.keeps]
    simp [hcb]
  · obtain ⟨u, hu, hcount, hd⟩ := engineRun_decodes hb hc k (by omega)
    refine ⟨u, (run_eq_engineRun hs hb hc k (by omega)).trans hu, ?_⟩
    rw [hd.keeps]
    exact ⟨decide_eq_true (by omega), rfl⟩

end Sys2Proof.Machine
end

section
/-! SUPPORT. What a step can do to storage and to the latches, and the invariant it keeps (10_state.md, 20_memory.md
section 5, 60_exceptions.md R240, R246). -/

namespace Sys2Proof.Machine

section Rules

variable {s t : State}

/-! ### Steps that leave the run alone -/

/-- From `s` to `t` the memories, the run and its latches are as they were; of what the invariant speaks of besides,
`DONE` may have been cleared and a control register's written-mark set. -/
structure State.Retains (s t : State) : Prop where
  keeps : t = { s with ba := t.ba, bd := t.bd, wBA := t.wBA, wBD := t.wBD, done := t.done, cmderr := t.cmderr,
                       rdata := t.rdata, host := t.host, sched := t.sched }
  done : t.done = true → s.done = true
  wBA : s.wBA = true → t.wBA = true
  wBD : s.wBD = true → t.wBD = true

theorem State.retains_self (s : State) : s.Retains s := ⟨rfl, id, id, id⟩

theorem State.retains_popTurn (s : State) : s.Retains s.popTurn := ⟨rfl, id, id, id⟩

theorem State.Retains.setHost (r : s.Retains t) (p : List HostLine) : s.Retains (t.setHost p) :=
  ⟨congrArg (State.setHost · p) r.keeps, r.done, r.wBA, r.wBD⟩

theorem State.Retains.setRdata (r : s.Retains t) (b : Byte) : s.Retains (t.setRdata b) :=
  ⟨congrArg (State.setRdata · b) r.keeps, r.done, r.wBA, r.wBD⟩

/-- Everything a host operation can do to storage: store a payload byte, begin a run, or neither. -/
inductive StorageStep (i : Instr) (s t : State) : Prop
  | store (a : HostAddr) (d : Byte) (hi : i = .sbPay a d) (hb : s.busy = false) (ht : t = s.payStore a.toNat d)
  | start (hb : s.busy = false) (hw : s.inputsWritten = true) (ht : t = s.frameSetup.beginRun)
  | retain (h : s.Retains t)

/-- A host operation that answers next. -/
theorem exec_storageStep {i : Instr} (hf : i.format = .hbus) (h : exec i s = .next t) : StorageStep i s t := by
  rcases exec_next_cases h with ⟨_, rfl⟩ | ⟨_, rfl⟩ | ⟨a, d, hi, hb, ht⟩ | ⟨_, hb, hw, ht⟩ | ⟨_, rfl⟩ | ⟨_, _, rfl⟩
    | ⟨_, _, rfl⟩ | ⟨_, _, rfl⟩ | ⟨hne, _⟩
  · exact .retain (State.retains_self _)
  · exact .retain ⟨rfl, id, id, id⟩
  · exact .store a d hi hb ht
  · exact .start hb hw ht
  · exact .retain ⟨rfl, fun hd => absurd hd Bool.false_ne_true, id, id⟩
  · exact .retain ⟨rfl, id, fun _ => rfl, id⟩
  · exact .retain ⟨rfl, id, id, fun _ => rfl⟩
  · exact .retain (s.retains_self.setRdata _)
  · exact absurd hf hne

/-- Everything a step that answers next can do to storage: a host operation's effect, a cell decoded, a reset, or
nothing. -/
inductive MachineStep (s t : State) : Prop
  | txn (hturn : s.nextTurn = .host) (w : HbusWord) (rest : List HostLine) (hhost : s.host = .txn w :: rest)
      (h : StorageStep (decodeHbus w) (s.popTurn.setHost rest) t)
  | cell (hturn : s.nextTurn = .engine) (hb : s.busy = true) (hidle : t.cell = CellRegs.idle)
      (h : CellsDecoded s.popTurn t)
  | rst (hturn : s.nextTurn = .rst) (ht : t = s.popTurn.takeReset)
  | retain (h : s.Retains t)

/-- CELL_STEP is enabled during a run while a cell remains (42_pixel_expansion.md R160). -/
theorem engineEnabled_iff : engineEnabled s = true ↔ s.busy = true ∧ s.c.toNat < 240 := by
  rw [engineEnabled, Bool.and_eq_true, decide_eq_true_iff]

/-- A step that answers next, in the terms of the invariant. -/
theorem step_machineStep (h : step s = .next t) : MachineStep s t := by
  rcases step_next_cases h with ⟨hturn, hh⟩ | ⟨hturn, he⟩ | ⟨hturn, ht⟩
  · rcases hostTurn_next_cases hh with ⟨_, rfl⟩ | ⟨w, rest, hhost, hx⟩ | ⟨_, _, _, _, _, _, rfl⟩
    · exact .retain s.retains_popTurn
    · exact .txn hturn w rest hhost (exec_storageStep (decodeHbus_wf w).2 hx)
    · exact .retain ((s.retains_popTurn.setRdata _).setHost _)
  · cases hen : engineEnabled s.popTurn with
    | false =>
      rw [engineTurn, if_neg (ne_true_of_eq_false hen)] at he
      cases he
      exact .retain s.retains_popTurn
    | true =>
      obtain ⟨hb, hc⟩ := engineEnabled_iff.mp hen
      obtain ⟨u, hu, _, hidle, hd⟩ := cellStep_decodes hb hc
      rw [engineTurn_enabled hb hc, hu] at he
      cases he
      exact .cell hturn hb hidle hd
  · exact .rst hturn ht

/-! ### The invariant -/

/-- A step that leaves the run alone keeps the invariant. -/
theorem State.Retains.keepsInv (r : s.Retains t) (h : s.Inv) : t.Inv := by
  rw [r.keeps]
  exact {
    payWf := h.payWf
    payBelow := h.payBelow
    rasWf := h.rasWf
    rasBelow := h.rasBelow
    notBusyDone := fun ⟨hb, hd⟩ => h.notBusyDone ⟨hb, r.done hd⟩
    busyRv := h.busyRv
    doneRv := fun hd => h.doneRv (r.done hd)
    busyC := h.busyC
    busyInv := h.busyInv
    busySlot3 := h.busySlot3
    busyInputs := fun hb => (h.busyInputs hb).imp r.wBA (And.imp_left r.wBD)
    busyCells := h.busyCells
    rvFull := h.rvFull
    cellIdle := h.cellIdle }

/-- A payload byte stored outside a run. -/
theorem inv_payStore {o : Nat} (d : Byte) (h : s.Inv) (hb : s.busy = false) (ho : o < 3960) : (s.payStore o d).Inv where
  payWf := Memory.write_wf o d h.payWf
  payBelow := Memory.write_below o d h.payBelow ho
  rasWf := h.rasWf
  rasBelow := h.rasBelow
  notBusyDone := h.notBusyDone
  busyRv := h.busyRv
  doneRv := h.doneRv
  busyC := h.busyC
  busyInv := h.busyInv
  busySlot3 := h.busySlot3
  busyInputs := fun hbusy => absurd hbusy (ne_true_of_eq_false hb)
  busyCells := h.busyCells
  rvFull := h.rvFull
  cellIdle := h.cellIdle

/-- An accepted START. -/
theorem inv_beginRun (h : s.Inv) (hw : s.inputsWritten = true) : s.frameSetup.beginRun.Inv where
  payWf := h.payWf
  payBelow := h.payBelow
  rasWf := h.rasWf
  rasBelow := h.rasBelow
  notBusyDone := fun ⟨_, hd⟩ => Bool.false_ne_true hd
  busyRv := fun _ => rfl
  doneRv := fun hd => absurd hd Bool.false_ne_true
  busyC := fun _ => Nat.zero_lt_succ 239
  busyInv := fun _ => rfl
  busySlot3 := fun _ => rfl
  busyInputs := fun _ => s.inputsWritten_iff.mp hw
  busyCells := fun _ _ _ _ _ _ _ hlt => absurd hlt (Nat.not_lt_zero _)
  rvFull := fun hv => absurd hv Bool.false_ne_true
  cellIdle := h.cellIdle

/-- After reset nothing is stored, no flag is set, and the working registers are idle. -/
theorem inv_reset : State.reset.Inv where
  payWf := .nil
  payBelow := fun _ hp => absurd hp List.not_mem_nil
  rasWf := .nil
  rasBelow := fun _ hp => absurd hp List.not_mem_nil
  notBusyDone := fun ⟨hb, _⟩ => Bool.false_ne_true hb
  busyRv := fun _ => rfl
  doneRv := fun hd => absurd hd Bool.false_ne_true
  busyC := fun hb => absurd hb Bool.false_ne_true
  busyInv := fun hb => absurd hb Bool.false_ne_true
  busySlot3 := fun hb => absurd hb Bool.false_ne_true
  busyInputs := fun hb => absurd hb Bool.false_ne_true
  busyCells := fun hb => absurd hb Bool.false_ne_true
  rvFull := fun hv => absurd hv Bool.false_ne_true
  cellIdle := rfl

/-- The invariant says nothing of the host's program and the schedule. -/
theorem inv_takeReset (s : State) : s.takeReset.Inv :=
  State.Retains.keepsInv ⟨rfl, id, id, id⟩ inv_reset

/-- The cells before `c` are written, byte by byte. -/
theorem State.cellsDone_iff :
    s.cellsDone ↔ ∀ q, q < 92160 → pixelCell (q / 3) < s.c.toNat → (s.ras.read? q).isSome = true := by
  constructor
  · intro h q hq hlt
    have hbyte : rasOff (pixelIndex (q / 3 % 160) (q / 3 / 160)) (q % 3) = q := by
      unfold rasOff pixelIndex
      omega
    have hdone := h (q / 3 % 160) (q / 3 / 160) (q % 3) (by omega) (by omega) (by omega) hlt
    rwa [hbyte] at hdone
  · intro h x y k hx hy hk hlt
    refine h _ (by unfold rasOff pixelIndex; omega) ?_
    rw [rasOff_div _ _ hk, pixelIndex, pixelCell_pixel hx]
    exact hlt

/-- Decoding on leaves no cell out. -/
theorem CellsDecoded.cellsDone (h : CellsDecoded s t) (hs : s.cellsDone) : t.cellsDone := by
  rw [State.cellsDone_iff] at hs ⊢
  intro q hq hlt
  rcases Nat.lt_or_ge (pixelCell (q / 3)) s.c.toNat with hp | hp
  · rw [h.outside q (by omega)]
    exact hs q hq hp
  · rw [h.read? hp hlt]
    rfl

/-- When no cell remains the raster is complete. -/
theorem State.cellsDone.rasterFull (hs : s.cellsDone) (hc : 240 ≤ s.c.toNat) : s.rasterFull := fun q hq =>
  State.cellsDone_iff.mp hs q hq ((pixelCell_byte_lt hq).trans_le hc)

theorem CellsDecoded.busy_iff (h : CellsDecoded s t) : t.busy = true ↔ t.c.toNat < 240 := by
  rw [h.keeps]
  exact decide_eq_true_iff

/-- While cells remain, `DONE` and `RV` are as they were. -/
theorem CellsDecoded.flags_running (h : CellsDecoded s t) (hc : t.c.toNat < 240) : t.done = s.done ∧ t.rv = s.rv := by
  rw [h.keeps]
  exact ⟨if_pos hc, if_pos hc⟩

/-- When no cell remains, the raster is valid. -/
theorem CellsDecoded.rv_complete (h : CellsDecoded s t) (hc : ¬ t.c.toNat < 240) : t.rv = true := by
  rw [h.keeps]
  exact if_neg hc

/-- Decoding during a run keeps the invariant: the run goes on with one cell fewer, or it is complete. -/
theorem CellsDecoded.keepsInv (hd : CellsDecoded s t) (hb : s.busy = true) (hidle : t.cell = CellRegs.idle)
    (h : s.Inv) : t.Inv where
  payWf := by rw [hd.keeps]; exact h.payWf
  payBelow := by rw [hd.keeps]; exact h.payBelow
  rasWf := hd.wf h.rasWf
  rasBelow := hd.below h.rasBelow
  notBusyDone := fun ⟨hbt, hdt⟩ => h.notBusyDone ⟨hb, (hd.flags_running (hd.busy_iff.mp hbt)).1 ▸ hdt⟩
  busyRv := fun hbt => (hd.flags_running (hd.busy_iff.mp hbt)).2.trans (h.busyRv hb)
  doneRv := fun hdt => hd.rv_complete fun hc => h.notBusyDone ⟨hb, (hd.flags_running hc).1 ▸ hdt⟩
  busyC := hd.busy_iff.mp
  busyInv := fun _ => by rw [hd.keeps]; exact h.busyInv hb
  busySlot3 := fun _ => by rw [hd.keeps]; exact h.busySlot3 hb
  busyInputs := fun _ => by rw [hd.keeps]; exact h.busyInputs hb
  busyCells := fun _ => hd.cellsDone (h.busyCells hb)
  rvFull := fun hv => by
    refine (hd.cellsDone (h.busyCells hb)).rasterFull (Nat.le_of_not_lt fun hc => ?_)
    rw [(hd.flags_running hc).2, h.busyRv hb] at hv
    exact Bool.false_ne_true hv
  cellIdle := hidle

end Rules

/-! ### The statements -/

/-- Settles O46: each thing a step can do keeps the invariant. -/
theorem everyStepKeepsTheInvariant : Obligations.EveryStepKeepsTheInvariant := by
  intro s t hinv h
  cases step_machineStep h with
  | txn _ w rest _ hx =>
    have hnext : (s.popTurn.setHost rest).Inv := (s.retains_popTurn.setHost rest).keepsInv hinv
    cases hx with
    | store a d hi hb ht =>
      have hwf := (decodeHbus_wf w).1
      rw [hi] at hwf
      exact ht ▸ inv_payStore d hnext hb (Nat.lt_succ_of_le ((inPayload_iff a).mp hwf))
    | start _ hw ht => exact ht ▸ inv_beginRun hnext hw
    | retain hr => exact hr.keepsInv hnext
  | cell _ hb hidle hd => exact hd.keepsInv hb hidle (s.retains_popTurn.keepsInv hinv)
  | rst _ ht => exact ht ▸ inv_takeReset _
  | retain hr => exact hr.keepsInv hinv

/-- Settles O47: the invariant of the reset state. -/
theorem resetHasTheInvariant : Obligations.ResetHasTheInvariant := inv_reset

/-- Settles O42: of the things a step can do, a stored byte is SB_PAY's, a decoded cell the engine's, and a START comes
outside a run. -/
theorem storageChangesOnlyByItsOwner : Obligations.StorageChangesOnlyByItsOwner := by
  intro s t h hnz
  cases step_machineStep h with
  | txn hturn w rest hhost hx =>
    cases hx with
    | store a d hi hb ht =>
      subst ht
      exact ⟨fun _ => ⟨hturn, hb, w, rest, a, d, hhost, hi, rfl⟩, fun hr => absurd rfl hr,
        fun _ _ => ⟨rfl, rfl, rfl, rfl⟩⟩
    | start hb _ ht =>
      subst ht
      exact ⟨fun hp => absurd rfl hp, fun hr => absurd rfl hr, fun hbusy => absurd hbusy (ne_true_of_eq_false hb)⟩
    | retain hr =>
      rw [hr.keeps]
      exact ⟨fun hp => absurd rfl hp, fun hr => absurd rfl hr, fun _ _ => ⟨rfl, rfl, rfl, rfl⟩⟩
  | cell hturn hb _ hd =>
    refine ⟨fun hp => absurd ?_ hp, fun _ => ⟨hturn, hb⟩, fun _ _ => ?_⟩ <;> rw [hd.keeps]
    · rfl
    · exact ⟨rfl, rfl, rfl, rfl⟩
  | rst hturn _ => exact absurd hturn hnz
  | retain hr =>
    rw [hr.keeps]
    exact ⟨fun hp => absurd rfl hp, fun hr => absurd rfl hr, fun _ _ => ⟨rfl, rfl, rfl, rfl⟩⟩

end Sys2Proof.Machine
end

section
/-! SUPPORT. Where a step stops, and what a turn of the host and a reset cycle do (43_host_interface.md R190, R208,
60_exceptions.md R240, R246, 70_reset_and_hazards.md R270 to R272). -/

namespace Sys2Proof.Machine

section Rules

variable {s t : State}

/-! ### Stops -/

/-- `i` raises `e`: the two model faults of R246. -/
def ModelFault (i : Instr) (s : State) (e : Fault) : Prop :=
  (e = .unwrittenInput ∧ i = .cmdStart ∧ s.busy = false
      ∧ (s.wBA = false ∨ s.wBD = false ∨ ∃ o, o < 3960 ∧ s.wPAY o = false))
    ∨ (e = .unwrittenRead ∧ ((∃ a d, i = .lbPay a d ∧ s.wPAY a.toNat = false)
        ∨ (∃ d, i = .lbBa d ∧ s.wBA = false) ∨ ∃ d, i = .lbBd d ∧ s.wBD = false))

/-- An instruction answers next or raises a model fault; none is refused. -/
theorem exec_next_or_fault (i : Instr) (s : State) :
    (∃ t, exec i s = .next t) ∨ ∃ e, exec i s = .fault e ∧ ModelFault i s e := by
  cases i with
  | sbPay a d =>
    cases hb : s.busy with
    | true => exact .inl ⟨_, exec_sbPay_of_busy a d hb⟩
    | false => exact .inl ⟨_, exec_sbPay_of_idle a d hb⟩
  | lbPay a d =>
    cases hw : s.wPAY a.toNat with
    | true =>
      obtain ⟨b, hr⟩ := Option.isSome_iff_exists.mp hw
      exact .inl ⟨_, exec_lbPay_of_read d hr⟩
    | false => exact .inr ⟨_, exec_lbPay_of_unwritten d hw, .inr ⟨rfl, .inl ⟨a, d, rfl, hw⟩⟩⟩
  | cmdStart =>
    cases hb : s.busy with
    | true => exact .inl ⟨_, exec_cmdStart_of_busy hb⟩
    | false =>
      cases hw : s.inputsWritten with
      | true => exact .inl ⟨_, exec_cmdStart_accepted hb hw⟩
      | false =>
        refine .inr ⟨.unwrittenInput, ?_, .inl ⟨rfl, rfl, hb, State.inputsWritten_eq_false_iff.mp hw⟩⟩
        rw [exec_cmdStart_of_idle hb, hw]
        rfl
  | lbBa d =>
    cases hw : s.wBA with
    | true => exact .inl ⟨_, if_pos hw⟩
    | false => exact .inr ⟨_, if_neg (ne_true_of_eq_false hw), .inr ⟨rfl, .inr (.inl ⟨d, rfl, hw⟩)⟩⟩
  | lbBd d =>
    cases hw : s.wBD with
    | true => exact .inl ⟨_, if_pos hw⟩
    | false => exact .inr ⟨_, if_neg (ne_true_of_eq_false hw), .inr ⟨rfl, .inr (.inr ⟨d, rfl, hw⟩)⟩⟩
  | lbRas a d =>
    cases hv : s.rv with
    | true => exact .inl ⟨_, if_pos hv⟩
    | false => exact .inl ⟨_, exec_lbRas_of_not_rv a d hv⟩
  | _ => exact .inl ⟨_, rfl⟩

theorem hostTurn_txn {w : HbusWord} {rest : List HostLine} (h : s.host = .txn w :: rest) :
    hostTurn s = exec (decode (.hbus w)) (s.setHost rest) := by
  unfold hostTurn
  rw [h]
  rfl

theorem hostTurn_poll {a : HostAddr} {m v : Byte} {rest : List HostLine} (h : s.host = .poll a m v :: rest) :
    hostTurn s = andThen (exec (decode (.hbus (hbusWord 0#1 a 0x00#8))) s)
      fun t => .next (if t.rdata &&& m = v then t.setHost rest else t) := by
  unfold hostTurn
  rw [h]
  exact congrArg (andThen (hostTransaction (hbusWord 0#1 a 0x00#8) s)) (funext fun t => (apply_ite ..).symm)

/-- The instruction of the host's next line: a transaction's, or the read of a `poll` (43_host_interface.md R190,
R208). -/
def State.NextLineRuns (s : State) (i : Instr) : Prop :=
  (∃ w rest, s.host = .txn w :: rest ∧ i = decode (.hbus w))
    ∨ ∃ a m v rest, s.host = .poll a m v :: rest ∧ i = decode (.hbus (hbusWord 0#1 a 0x00#8))

/-- A turn of the host answers next, or its line's instruction raises a model fault. -/
theorem hostTurn_next_or_fault (s : State) :
    (∃ t, hostTurn s = .next t) ∨ ∃ e, hostTurn s = .fault e ∧ ∃ i, s.NextLineRuns i ∧ ModelFault i s e := by
  cases hhost : s.host with
  | nil => exact .inl ⟨s, by rw [hostTurn, hhost]⟩
  | cons line rest =>
    cases line with
    | txn w =>
      rw [hostTurn_txn hhost]
      rcases exec_next_or_fault (decode (.hbus w)) (s.setHost rest) with hn | ⟨e, he, hm⟩
      · exact .inl hn
      · exact .inr ⟨e, he, _, .inl ⟨w, rest, hhost, rfl⟩, hm⟩
    | poll a m v =>
      rw [hostTurn_poll hhost]
      rcases exec_next_or_fault (decode (.hbus (hbusWord 0#1 a 0x00#8))) s with ⟨t, ht⟩ | ⟨e, he, hm⟩
      · exact .inl ⟨_, by rw [ht, andThen_next]⟩
      · exact .inr ⟨e, by rw [he, andThen_fault], _, .inr ⟨a, m, v, rest, hhost, rfl⟩, hm⟩

/-- A step answers next, or it is the host's and its line's instruction raises a model fault. -/
theorem step_next_or_fault (s : State) :
    (∃ t, step s = .next t)
      ∨ ∃ e, step s = .fault e ∧ s.nextTurn = .host ∧ ∃ i, s.NextLineRuns i ∧ ModelFault i s e := by
  unfold step
  cases s.nextTurn with
  | host =>
    rcases hostTurn_next_or_fault s.popTurn with hn | ⟨e, he, hm⟩
    · exact .inl hn
    · exact .inr ⟨e, he, rfl, hm⟩
  | engine => exact .inl (engineTurn_next s.popTurn)
  | rst => exact .inl ⟨_, rfl⟩

/-- At the host's turn a step is the turn's, with the turn taken off the schedule. -/
theorem step_of_host (h : s.nextTurn = .host) : step s = hostTurn s.popTurn := by
  rw [step, h]
  rfl

end Rules

/-! ### The statements -/

/-- Settles O43: a step that does not answer next raises the fault of its line's instruction. -/
theorem stepsStopOnlyAtTheTwoModelFaults : Obligations.StepsStopOnlyAtTheTwoModelFaults := by
  intro s
  rcases step_next_or_fault s with ⟨t, ht⟩ | ⟨e, he, hm⟩
  · rw [ht]
    exact ⟨nofun, nofun⟩
  · rw [he]
    exact ⟨nofun, fun _ h => Host.Outcome.fault.inj h ▸ hm⟩

/-- Settles O5: the line's word decoded, which for a well-formed instruction is that instruction. -/
theorem hostTurnRunsTheDecodedTransaction : Obligations.HostTurnRunsTheDecodedTransaction := by
  have hword (s : State) (w : HbusWord) (rest : List HostLine) (hturn : s.nextTurn = .host)
      (hhost : s.host = .txn w :: rest) :
      step s = exec (decode (.hbus w)) { s with host := rest, sched := s.sched.tail } :=
    (step_of_host hturn).trans (hostTurn_txn hhost)
  refine ⟨hword, fun s i w rest hwf henc hturn hhost => ?_⟩
  rw [hword s w rest hturn hhost, ← henc, decodeOfEncodeIsTheInstruction i hwf]

/-- Settles O8: the read changes the returned byte alone, and the masked byte decides about the line. -/
theorem pollRepeatsItsReadUntilTheByteMatches : Obligations.PollRepeatsItsReadUntilTheByteMatches := by
  intro s t a m v rest hturn hhost hread
  obtain ⟨b, hb⟩ := exec_read_next (by rw [decode_read]; exact decodeRead_isRead a 0x00#8) hread
  refine ⟨by rw [hb]; rfl, ?_⟩
  rw [step_of_host hturn, hostTurn_poll (s := s.popTurn) hhost]
  exact congrArg (andThen · _) hread

/-- Settles O44: a reset cycle answers `State.takeReset`, with the flags and every written-mark at 0. -/
theorem resetClearsStatusAndWrittenMarks : Obligations.ResetClearsStatusAndWrittenMarks := by
  intro s hturn
  have hstep : step s = .next s.popTurn.takeReset := by
    rw [step, hturn]
    rfl
  have hstatus : s.popTurn.takeReset.status = State.reset.status := rfl
  exact ⟨_, hstep, rfl, rfl, rfl, rfl, hstatus, rfl, rfl, rfl, fun _ => rfl, fun a d _ => exec_lbRas_of_not_rv a d rfl⟩

/-- Settles O45: each field at its reset value, and an empty payload has no byte written. -/
theorem theResetStateIsIdleAndUnwritten : Obligations.TheResetStateIsIdleAndUnwritten :=
  ⟨rfl, rfl, rfl, rfl, fun _ => rfl⟩

end Sys2Proof.Machine
end

section
/-! SUPPORT. Reads and `CMDERR`: what the raster window returns, and that `CMDERR` decides nothing (43_host_interface.md
R205, 20_memory.md R69, 60_exceptions.md R242). -/

namespace Sys2Proof.Machine

/-! ### A component of a pixel -/

theorem red_append (r g b : Byte) : red (r ++ g ++ b) = r := by
  apply BitVec.eq_of_getLsbD_eq
  intro i hi
  simp only [red, BitVec.getLsbD_extractLsb', BitVec.getLsbD_append]
  simp [hi, show ¬ 16 + i < 8 by omega, show ¬ 16 + i - 8 < 8 by omega, show 16 + i - 8 - 8 = i by omega]

theorem green_append (r g b : Byte) : green (r ++ g ++ b) = g := by
  apply BitVec.eq_of_getLsbD_eq
  intro i hi
  simp only [green, BitVec.getLsbD_extractLsb', BitVec.getLsbD_append]
  simp [hi]

theorem blue_append (r g b : Byte) : blue (r ++ g ++ b) = b := by
  apply BitVec.eq_of_getLsbD_eq
  intro i hi
  simp only [blue, BitVec.getLsbD_extractLsb', BitVec.getLsbD_append]
  simp [hi]

/-- A component of a pixel is its byte of the raster. -/
theorem component_rasPixel (s : State) (p : Nat) {k : Nat} (hk : k < 3) :
    component (s.rasPixel p) k = s.rasByte (rasOff p k) := by
  rcases (by omega : k = 0 ∨ k = 1 ∨ k = 2) with rfl | rfl | rfl
  · exact red_append ..
  · exact green_append ..
  · exact blue_append ..

/-! ### `CMDERR` -/

/-- But for ACK, which clears `CMDERR`, and a read of `STATUS`, an operation neither reads nor clears it. -/
theorem exec_reject {i : Instr} (hack : i ≠ .cmdAck) (hstatus : i.op ≠ .lbStatus) (s : State) :
    exec i s.reject = andThen (exec i s) fun t => .next t.reject := by
  cases i with
  | sbPay a d => cases hb : s.busy <;> simp only [exec, execSbPay, State.reject_busy, hb] <;> rfl
  | lbPay a d => cases hr : s.pay.read? a.toNat <;> simp only [exec, execLbPay, State.reject_pay, hr] <;> rfl
  | cmdStart =>
    cases hb : s.busy with
    | true =>
      rw [exec_cmdStart_of_busy hb, exec_cmdStart_of_busy (s := s.reject) hb]
      rfl
    | false =>
      have hw : s.reject.inputsWritten = s.inputsWritten := rfl
      rw [exec_cmdStart_of_idle hb, exec_cmdStart_of_idle (s := s.reject) hb, hw]
      cases s.inputsWritten <;> rfl
  | lbBa d => cases hw : s.wBA <;> simp only [exec, execLbBa, State.reject_wBA, hw] <;> rfl
  | lbBd d => cases hw : s.wBD <;> simp only [exec, execLbBd, State.reject_wBD, hw] <;> rfl
  | lbRas a d =>
    have hpixel : s.reject.rasPixel = s.rasPixel := rfl
    cases hv : s.rv with
    | true =>
      simp only [exec, execLbRas, State.reject_rv, hv, hpixel, if_true, andThen_next]
      generalize component _ _ = b
      rfl
    | false =>
      rw [exec_lbRas_of_not_rv a d hv, exec_lbRas_of_not_rv (s := s.reject) a d hv]
      rfl
  | cmdAck => exact absurd rfl hack
  | lbStatus d => exact absurd rfl hstatus
  | _ => rfl

/-- In `STATUS` a rejection shows as bit 3. -/
theorem status_reject {s : State} (h : s.cmderr = false) : s.reject.status = s.status ||| 0x08#8 := by
  have hbits : ∀ v d b : Bool, (0#4 ++ BitVec.ofBool true ++ BitVec.ofBool v ++ BitVec.ofBool d ++ BitVec.ofBool b : Byte)
      = (0#4 ++ BitVec.ofBool false ++ BitVec.ofBool v ++ BitVec.ofBool d ++ BitVec.ofBool b) ||| 0x08#8 := by decide
  rw [State.status, State.status, h]
  exact hbits s.rv s.done s.busy

/-! ### The statements -/

/-- Settles O22: the seven operations are the reads. -/
theorem readsHaveNoSideEffect : Obligations.ReadsHaveNoSideEffect := by
  intro s t a d i hi h
  have hread : isRead i = true := by
    revert i
    simp [isRead, Instr.op]
  obtain ⟨b, rfl⟩ := exec_read_next hread h
  rfl

/-- Settles O21: the window's byte is the raster's byte at its own offset. -/
theorem rasterWindowDeliversTheBytesInOrder : Obligations.RasterWindowDeliversTheBytesInOrder := by
  intro s a d b ha hv hb
  have hk : (a.toNat - 0x20000) % 3 < 3 := Nat.mod_lt _ (by decide)
  have hoff : rasOff ((a.toNat - 0x20000) / 3) ((a.toNat - 0x20000) % 3) = a.toNat - 0x20000 := Nat.div_add_mod _ 3
  have haddr : a.toNat = 0x20000 + (a.toNat - 0x20000) := (Nat.add_sub_of_le ((inRaster_iff a).mp ha).1).symm
  rw [exec_lbRas_of_rv d hv hk (haddr.trans (congrArg _ hoff.symm)), component_rasPixel _ _ hk, hoff, State.rasByte, hb]
  rfl

/-- Settles O48: a valid raster is complete, so the window's byte is a written one. -/
theorem aValidRasterReadReturnsAWrittenByte : Obligations.AValidRasterReadReturnsAWrittenByte := by
  intro s a d hinv hv ha
  have haddr := (inRaster_iff a).mp ha
  obtain ⟨b, hb⟩ := Option.isSome_iff_exists.mp (hinv.rvFull hv (a.toNat - 0x20000) (by omega))
  exact ⟨b, hb, rasterWindowDeliversTheBytesInOrder s a d b ha hv hb⟩

/-- Settles O24: ACK, the read of `STATUS`, and every other operation, with which setting `CMDERR` commutes. -/
theorem cmderrBlocksNoOperation : Obligations.CmderrBlocksNoOperation := by
  intro i s h
  by_cases hack : i = .cmdAck
  · subst hack
    exact ⟨_, rfl, rfl, rfl, rfl⟩
  by_cases hstatus : i.op = .lbStatus
  · obtain ⟨d, rfl⟩ : ∃ d, i = .lbStatus d := by
      cases i with
      | lbStatus d => exact ⟨d, rfl⟩
      | _ => cases hstatus
    exact ⟨_, rfl, rfl, rfl, status_reject h⟩
  · have hrej : exec i { s with cmderr := true } = _ := exec_reject hack hstatus s
    rw [hrej]
    cases exec i s with
    | next t => exact ⟨t.reject, rfl, rfl, (if_neg hack).symm, (if_neg hstatus).symm⟩
    | fault e => rfl
    | refused e => rfl

end Sys2Proof.Machine
end

section
/-! SUPPORT. The payload's layout and `fill` (20_memory.md R63, R64, 30_encoding.md R108). -/

namespace Sys2Proof.Machine

/-- Settles O49: an offset's cell and scanline are quotients and remainders of it. -/
theorem payloadOffsetsCoverTheirRegionsOnce : Obligations.PayloadOffsetsCoverTheirRegionsOnce := by
  unfold Obligations.PayloadOffsetsCoverTheirRegionsOnce bmOff cmOff
  refine ⟨fun o ho => ⟨(o / 192, o % 192 / 16, o % 16), ?offset, ?unique⟩,
    fun x1 y1 hx hy => ?range, fun o hlo hhi => ?cover,
    fun x1 y1 x1' y1' hx hy hx' hy' => ?pair⟩
  case offset => dsimp only; omega
  case unique =>
    rintro ⟨x1, y1, y2⟩ ⟨hx, hy, hy2, rfl⟩
    dsimp only at hx hy hy2 ⊢
    rw [Prod.mk.injEq, Prod.mk.injEq]
    omega
  case range => omega
  case cover => exact ⟨(o - 3840) % 10 * 2, (o - 3840) / 10, by omega, by omega, by omega⟩
  case pair => omega

/-- Settles O50: within the payload no line is an error; past it the check of `o + n` refuses. -/
theorem fillExpandsToAscendingPayloadWrites : Obligations.FillExpandsToAscendingPayloadWrites := by
  intro o n v hv
  refine ⟨fun hon => ?_, fun hon => if_neg (Nat.not_le.mpr hon)⟩
  have hlines : (List.range n).map (fun j => asmWpay (o + j) v)
      = ((List.range n).map fun j => HostLine.txn (hbusWord 1#1 (BitVec.ofNat 20 (o + j)) (BitVec.ofNat 8 v))).map some := by
    rw [List.map_map]
    refine List.map_congr_left fun j hj => asmWpay_eq ?_ hv
    have := List.mem_range.mp hj
    omega
  rw [AsmLine.expand, if_pos hon, hlines, allLines_map_some]

end Sys2Proof.Machine
end
